-- ==== Sys2Proof/Word.lean ====
section
/-! DEFINITION. The word types of the block and the record of its bus configuration (00_scope.md R6, R8; 10_state.md R15). -/

namespace Sys2Proof

/-- One byte of an SPI transfer (20_memory.md R39). -/
abbrev Byte := BitVec 8

/-- A host command word `cmd[20:0]` (30_encoding.md R51). -/
abbrev CmdWord := BitVec 21

/-- The 16-bit frame (30_encoding.md R49). -/
abbrev FrameWord := BitVec 16

/-- The identifier of a digital output line (10_state.md R14). -/
abbrev LineId := Nat

/-- The bus transaction configuration (10_state.md R15): the requested clock rate in Hz, the bit order
(1 = most-significant bit first) and the clock mode, a number from 0 to 3. -/
structure BusCfg where
  clockHz  : BitVec 32
  bitOrder : Bool
  mode     : BitVec 2
  deriving DecidableEq, Repr, Inhabited

end Sys2Proof
end

