-- ==== Sys2Proof/Syntax.lean ====
section
/-! DEFINITION. The instructions: one constructor per row of spec/opcode_table.json (30_encoding.md R51, R56). -/

namespace Sys2Proof

/-- The two host commands and the four operations the block requests of the SPI collaborator.
A command keeps the bits the block ignores, since `CmdAccept` shows the whole word (40_begin.md R63). -/
inductive Instr where
  /-- BEGIN; `ignored` is `cmd[19:0]` (30_encoding.md R54). -/
  | beginCmd (ignored : BitVec 20)
  /-- WRITE ch, buf, g1x, act, value; `value` is all of `cmd[15:0]` (30_encoding.md R53). -/
  | writeCmd (ch buf g1x act : Bool) (value : BitVec 16)
  /-- SPI.INIT (42_spi_bus.md R97). -/
  | spiInit
  /-- SPI.BEGIN with the configuration on `spi_cfg` (42_spi_bus.md R98). -/
  | spiBegin (cfg : BusCfg)
  /-- SPI.XFER of the byte on `spi_wdata` (42_spi_bus.md R99). -/
  | spiXfer (byte : Byte)
  /-- SPI.END (42_spi_bus.md R100). -/
  | spiEnd
  deriving DecidableEq, Repr

end Sys2Proof
end

