-- ==== Sys2Proof/Decode.lean ====
section
/-! DEFINITION. Decoding and encoding of command words and of the request port (30_encoding.md R51 to R57, R61). -/

namespace Sys2Proof

/-- `spi_cfg[34:0] = {clock_hz, bit_order, mode}` (30_encoding.md R57). -/
def packCfg (c : BusCfg) : BitVec 35 :=
  c.clockHz ++ BitVec.ofBool c.bitOrder ++ c.mode

/-- The fields of `spi_cfg` (30_encoding.md R57). -/
def unpackCfg (w : BitVec 35) : BusCfg :=
  { clockHz := w.extractLsb' 3 32, bitOrder := w.getLsbD 2, mode := w.extractLsb' 0 2 }

/-- What the SPI request port shows (10_state.md R29): `spi_op`, `spi_cfg` and `spi_wdata`. -/
structure RequestPort where
  op    : BitVec 2
  cfg   : BitVec 35
  wdata : Byte
  deriving DecidableEq, Repr

/-- One row of the opcode table: a word `w` is the row's when `w &&& mask = pattern`. -/
structure TableRow (n : Nat) where
  pattern : BitVec n
  mask    : BitVec n
  deriving DecidableEq, Repr

/-- The match/mask test of 30_encoding.md R52. -/
def rowMatches {n : Nat} (r : TableRow n) (w : BitVec n) : Bool :=
  w &&& r.mask == r.pattern

/-- BEGIN (30_encoding.md R52). -/
def rowBegin : TableRow 21 := ⟨0x000000#21, 0x100000#21⟩

/-- WRITE (30_encoding.md R52). -/
def rowWrite : TableRow 21 := ⟨0x100000#21, 0x100000#21⟩

/-- SPI.INIT (30_encoding.md R56). -/
def rowSpiInit : TableRow 2 := ⟨0b00#2, 0b11#2⟩

/-- SPI.BEGIN (30_encoding.md R56). -/
def rowSpiBegin : TableRow 2 := ⟨0b01#2, 0b11#2⟩

/-- SPI.XFER (30_encoding.md R56). -/
def rowSpiXfer : TableRow 2 := ⟨0b10#2, 0b11#2⟩

/-- SPI.END (30_encoding.md R56). -/
def rowSpiEnd : TableRow 2 := ⟨0b11#2, 0b11#2⟩

/-- A command word is decoded whole: no 21-bit word is illegal (30_encoding.md R52, R53, R54). -/
def decodeCommand (w : CmdWord) : Instr :=
  if rowMatches rowBegin w then
    .beginCmd (w.extractLsb' 0 20)
  else
    .writeCmd (w.getLsbD 19) (w.getLsbD 18) (w.getLsbD 17) (w.getLsbD 16) (w.extractLsb' 0 16)

/-- The request port is decoded by `spi_op`; all four codes are used (30_encoding.md R56).
`spi_cfg` is read for BEGIN only and `spi_wdata` for XFER only (10_state.md R29). -/
def decodeRequest (p : RequestPort) : Instr :=
  if rowMatches rowSpiInit p.op then .spiInit
  else if rowMatches rowSpiBegin p.op then .spiBegin (unpackCfg p.cfg)
  else if rowMatches rowSpiXfer p.op then .spiXfer p.wdata
  else .spiEnd

/-- Why a number is no instruction of the table. -/
inductive DecodeError where
  /-- A host command is exactly 21 bits (30_encoding.md R55); this number needs more. -/
  | commandTooWide
  /-- `spi_op` is exactly 2 bits (30_encoding.md R56); this number needs more. -/
  | opTooWide
  deriving DecidableEq, Repr

/-- The instruction of a number numbered as the opcode table numbers bits. A row of the 2-bit request code takes
one byte, and its arguments (`spi_cfg`, `spi_wdata`), which lie above it, are 0; any other row is a 21-bit command. -/
def decodeRaw (nbits w : Nat) : Except DecodeError Instr :=
  if nbits ≤ 8 then
    if w < 4 then .ok (decodeRequest ⟨BitVec.ofNat 2 w, 0#35, 0#8⟩) else .error .opTooWide
  else
    if w < 2097152 then .ok (decodeCommand (BitVec.ofNat 21 w)) else .error .commandTooWide

/-- The host's reading of the decoder: `none` where `decodeRaw` refuses. -/
def decodeTableWord (nbits w : Nat) : Option Instr :=
  match decodeRaw nbits w with
  | .ok i => some i
  | .error _ => none

/-- Where an instruction's bits stand: a command word on the host port, or the signals of the request port. -/
inductive Encoded where
  | command (w : CmdWord)
  | request (p : RequestPort)
  deriving DecidableEq, Repr

/-- The command word of BEGIN: `op` = 0 (30_encoding.md R51). -/
def encodeBegin (ignored : BitVec 20) : CmdWord :=
  BitVec.ofBool false ++ ignored

/-- The command word of WRITE: `{1, ch, buf, g1x, act, value}` (30_encoding.md R51, R61). -/
def encodeWrite (ch buf g1x act : Bool) (value : BitVec 16) : CmdWord :=
  BitVec.ofBool true ++ BitVec.ofBool ch ++ BitVec.ofBool buf ++ BitVec.ofBool g1x ++ BitVec.ofBool act ++ value

/-- The bits of an instruction (30_encoding.md R51, R56); a signal that carries no argument is 0. -/
def encode : Instr → Encoded
  | .beginCmd ignored => .command (encodeBegin ignored)
  | .writeCmd ch buf g1x act value => .command (encodeWrite ch buf g1x act value)
  | .spiInit => .request ⟨0b00#2, 0#35, 0#8⟩
  | .spiBegin cfg => .request ⟨0b01#2, packCfg cfg, 0#8⟩
  | .spiXfer byte => .request ⟨0b10#2, 0#35, byte⟩
  | .spiEnd => .request ⟨0b11#2, 0#35, 0#8⟩

/-- The instruction whose bits these are. -/
def decode : Encoded → Instr
  | .command w => decodeCommand w
  | .request p => decodeRequest p

end Sys2Proof
end

