-- ==== Sys2Proof/Machine/Operands.lean ====
section
/-! DEFINITION. The operand forms: frame packing, the frame's bytes, the bits of a byte on the wire, and the one
configuration the block writes (41_write.md R73; 30_encoding.md R50; 42_spi_bus.md R104; 10_state.md R15). -/

namespace Sys2Proof.Machine

/-- `CFG_DAC` (10_state.md R15; 40_begin.md R67): 20,000,000 Hz, most-significant bit first, mode 0. -/
def cfgDac : BusCfg where
  clockHz  := 20000000#32
  bitOrder := true
  mode     := 0#2

/-- `configBits = {ch, buf, g1x, act}` (41_write.md R73). -/
def configBits (ch buf g1x act : Bool) : BitVec 4 :=
  BitVec.ofBool ch ++ BitVec.ofBool buf ++ BitVec.ofBool g1x ++ BitVec.ofBool act

/-- `firstByte = {configBits, value[11:8]}` (41_write.md R73). -/
def firstByte (ch buf g1x act : Bool) (value : BitVec 16) : Byte :=
  configBits ch buf g1x act ++ value.extractLsb' 8 4

/-- `secondByte = value[7:0]` (41_write.md R73). -/
def secondByte (value : BitVec 16) : Byte :=
  value.extractLsb' 0 8

/-- `pack`: the frame `{firstByte, secondByte}` (41_write.md R73). -/
def pack (ch buf g1x act : Bool) (value : BitVec 16) : FrameWord :=
  firstByte ch buf g1x act value ++ secondByte value

/-- `byte0 = frame[15:8]` (30_encoding.md R50). -/
def byte0 (f : FrameWord) : Byte :=
  f.extractLsb' 8 8

/-- `byte1 = frame[7:0]` (30_encoding.md R50). -/
def byte1 (f : FrameWord) : Byte :=
  f.extractLsb' 0 8

/-- The WRITE whose frame this is, with the value as far as the frame keeps it: the fields of 30_encoding.md R49. -/
def frameCommand (f : FrameWord) : Instr :=
  .writeCmd (f.getLsbD 15) (f.getLsbD 14) (f.getLsbD 13) (f.getLsbD 12) ((f.extractLsb' 0 12).setWidth 16)

/-- The bits of a byte in the order they are clocked out: `b[7]` first when the most-significant bit goes first
(42_spi_bus.md R104), `b[0]` first otherwise (10_state.md R15, `bit_order`). -/
def byteBits (msbFirst : Bool) (b : Byte) : List Bool :=
  let msb := [b.getLsbD 7, b.getLsbD 6, b.getLsbD 5, b.getLsbD 4, b.getLsbD 3, b.getLsbD 2, b.getLsbD 1, b.getLsbD 0]
  if msbFirst then msb else msb.reverse

end Sys2Proof.Machine
end

