-- ==== Sys2Proof/Machine/Agents.lean ====
section
/-! DEFINITION. The agents, their moves and their events (10_state.md R11; 20_memory.md R42), and the named values of
the control registers (10_state.md R19, R22, R23). -/

namespace Sys2Proof.Machine

/-- The sequencer's control state, the block's program counter (10_state.md R22).
The codes `4'hA` to `4'hE` are left out, as R22 allows. -/
inductive Phase where
  | idle
  | bPinMode
  | bSetHigh
  | bSpiInit
  | wCsLow
  | wOpen
  | wXfer0
  | wXfer1
  | wClose
  | wCsHigh
  | fault
  deriving DecidableEq, Repr

/-- The state of the SPI request of the current SPI phase (10_state.md R23). -/
inductive ReqState where
  | none
  | wait
  | ack
  deriving DecidableEq, Repr

/-- The fault codes (10_state.md R19); codes 2 and 3 are never produced. -/
inductive FaultCode where
  | none
  | writeBeforeBegin
  deriving DecidableEq, Repr

/-- Who asks the SPI collaborator for an operation: this block or a foreign bus user (42_spi_bus.md R94). -/
inductive Requester where
  | thisBlock
  | foreign (user : Nat)
  deriving DecidableEq, Repr, Inhabited

/-- Whose transaction the bus carries, the values of `bus_owner` but `none` (42_spi_bus.md R94). -/
inductive BusOwner where
  | thisBlock
  | foreign (user : Nat)
  /-- A foreign user that was reset while it held the bus and has not released it: it holds the bus no more, and the
  bus stays its own (70_reset_and_hazards.md R123 for that instance, 60_exceptions.md R120). -/
  | stranded (user : Nat)
  deriving DecidableEq, Repr

/-- A requester as the owner of the bus. -/
def ownerOf : Requester → BusOwner
  | .thisBlock => .thisBlock
  | .foreign user => .foreign user

/-- The four collaborator operations (30_encoding.md R56). -/
inductive SpiOp where
  | spiInit
  | spiBegin
  | spiXfer
  | spiEnd
  deriving DecidableEq, Repr

/-- An operation with its argument: `cfg` for BEGIN, the byte for XFER (20_memory.md R42). -/
inductive Request where
  | spiInit
  | spiBegin (cfg : BusCfg)
  | spiXfer (byte : Byte)
  | spiEnd
  deriving DecidableEq, Repr, Inhabited

/-- An open bus transaction: its owner and the configuration the collaborator applies until the matching END
(42_spi_bus.md R94, R98). -/
structure Transaction where
  owner : BusOwner
  cfg   : BusCfg
  deriving DecidableEq, Repr

/-- The agents that emit events (20_memory.md R42). The host and the pin collaborator emit none: the sequencer
emits `CmdAccept` and the pin events. -/
inductive Agent where
  | sequencer
  | spiCollaborator
  | foreignUser (user : Nat)
  | reset
  /-- The reset of a foreign user that is another instance of the block (60_exceptions.md R120). -/
  | foreignReset (user : Nat)
  deriving DecidableEq, Repr

/-- The event kinds of 20_memory.md R42. An acknowledgement names the requester it is on behalf of. -/
inductive Event where
  | cmdAccept (cmd : CmdWord)
  | pinOutput (line : LineId)
  | pinWrite (line : LineId) (level : Bool)
  | spiReq (r : Request)
  | spiAck (who : Requester) (op : SpiOp)
  | cmdDone
  | fault (code : FaultCode)
  | reset
  deriving DecidableEq, Repr

/-- An event with the agent that emitted it (20_memory.md R42). -/
structure Entry where
  agent : Agent
  event : Event
  deriving DecidableEq, Repr

/-- What happens on the wires to the receiver, in order. -/
inductive WireItem where
  /-- The block's pin registers now drive its CS line at this level, or (`none`) no longer drive it (10_state.md R17). -/
  | cs (level : Option Bool)
  /-- The collaborator applies this configuration to the bus (42_spi_bus.md R98). -/
  | config (cfg : BusCfg)
  /-- One data bit of a transfer by this requester, at its sampling clock edge (42_spi_bus.md R104). -/
  | bit (who : Requester) (b : Bool)
  deriving DecidableEq, Repr

/-- One step of one agent (10_state.md R11). The pin collaborator has no step of its own (42_spi_bus.md R93). -/
inductive Move where
  /-- The sequencer takes its next micro-step. -/
  | sequencer
  /-- The host presents this command (10_state.md R26). -/
  | present (cmd : CmdWord)
  /-- The host presents no command any more (60_exceptions.md R112). -/
  | withdraw
  /-- The SPI collaborator acknowledges this requester's outstanding request (42_spi_bus.md R96). -/
  | acknowledge (who : Requester)
  /-- A foreign bus user issues a request (20_memory.md R42). -/
  | foreignRequest (user : Nat) (r : Request)
  /-- A foreign bus user that is another instance of the block is reset (60_exceptions.md R120;
  70_reset_and_hazards.md R123). -/
  | foreignReset (user : Nat)
  /-- A collaborator departs from its contract (42_spi_bus.md R103). -/
  | breach
  deriving DecidableEq, Repr, Inhabited

/-- One model step: whether `rst` is asserted in it, and the move that is taken if it is not
(10_state.md R30; 70_reset_and_hazards.md R123). -/
structure Turn where
  rst  : Bool
  move : Move
  deriving DecidableEq, Repr, Inhabited

end Sys2Proof.Machine
end

