-- ==== Sys2Proof/Config.lean ====
section
/-! DEFINITION. What the spec leaves open (00_scope.md R6; 93_implementation_defined.md): parameters of one instance,
and free values. None has a body, so no proof can rest on a value of it. -/

namespace Sys2Proof.Config

open Sys2Proof.Machine

/-- `PIN_FLOAT_LEVEL`: the level of the CS line while the block does not drive it; a draw, which may differ from step
to step (00_scope.md R6; 93_implementation_defined.md V4). Free value, log 9. -/
opaque pinFloatLevel : Nat → Bool

/-- `BUS_RELEASE_ON_RESET`: whether a reset releases a bus the block holds (00_scope.md R6; V7). Log 10. -/
opaque busReleaseOnReset : Bool

/-- `BUS_RELEASE_ON_RESET` of a foreign user that is another instance of the block (60_exceptions.md R120). Log 10. -/
opaque foreignReleaseOnReset : Nat → Bool

/-- `spi_op` while it is not valid: outside the SPI phases (10_state.md R29). Free value, log 36. -/
opaque unusedSpiOp : Phase → BitVec 2

/-- `spi_wdata` while it has no meaning: outside the transfer phases (10_state.md R29). Free value, log 36. -/
opaque unusedSpiWdata : Phase → Byte

/-- `ACTUAL_SCK_HZ`: the clock rate the collaborator reaches; no rule depends on it (00_scope.md R6; V6). Log 20. -/
opaque actualSckHz : Nat

/-- `cs_out` after a reset step: any value (70_reset_and_hazards.md R123; V1). Free value, log 8. -/
opaque resetCsOut : Nat → Bool

/-- `cfg` after a reset step: any value (70_reset_and_hazards.md R123; V2). Free value, log 8. -/
opaque resetCfg : Nat → BusCfg

/-- `frame` after a reset step: any value (70_reset_and_hazards.md R123; V3). Free value, log 8. -/
opaque resetFrame : Nat → FrameWord

/-- The byte an XFER returns on `spi_rdata` (42_spi_bus.md R102; V5). Free value, log 11. -/
opaque receivedByte : Nat → Byte

/-- The bit order of a foreign transfer made outside every bus transaction, on which the spec is silent.
Free value, log 15. -/
opaque untransactedBitOrder : Nat → Bool

/-- The turn taken once the schedule in the state is used up: agents interleave in any order (20_memory.md R44, R45).
Free value, log 2. -/
opaque freeTurn : Nat → Turn

/-- Whether the receiver is the dual-output chip (00_scope.md R7; 42_spi_bus.md R108): no rule of the block depends on
it, the receiver's reading of the channel bit does. Log 22. -/
opaque receiverIsDual : Bool

end Sys2Proof.Config
end

