-- ==== Sys2Proof/Machine/State.lean ====
section
/-! DEFINITION. The state (10_state.md R12, R26, R29; 42_spi_bus.md R94; 20_memory.md R42), the reasons a step can stop,
and the state after reset (70_reset_and_hazards.md R123, R124). -/

namespace Sys2Proof.Machine

/-- Everything the spec gives the block, its ports and its environment. -/
structure State where
  /-- `CS_LINE`, fixed at construction (10_state.md R14). -/
  csLine      : LineId
  /-- `cfg` (10_state.md R15). -/
  cfg         : BusCfg
  /-- `cs_oe` (10_state.md R16). -/
  csOe        : Bool
  /-- `cs_out` (10_state.md R16). -/
  csOut       : Bool
  /-- `initialized` (10_state.md R18). -/
  initialized : Bool
  /-- `fault` (10_state.md R19). -/
  fault       : FaultCode
  /-- `frame` (10_state.md R21). -/
  frame       : FrameWord
  /-- `phase` (10_state.md R22). -/
  phase       : Phase
  /-- `req` (10_state.md R23). -/
  req         : ReqState
  /-- Input port `cmd_valid`, driven by the host (10_state.md R26). -/
  cmdValid    : Bool
  /-- Input port `cmd`, driven by the host (10_state.md R26). -/
  cmd         : CmdWord
  /-- Input port `spi_rdata`, driven by the SPI collaborator (10_state.md R29). -/
  spiRdata    : Byte
  /-- The open bus transaction of the shared SPI bus; its owner is `bus_owner` (42_spi_bus.md R94, R98). -/
  bus         : Option Transaction
  /-- The outstanding requests of foreign bus users, oldest first, at most one a user (10_state.md R11(5)). -/
  foreignReqs : List (Nat × Request)
  /-- What has happened on the CS line and the bus lines, oldest first (42_spi_bus.md R104, R105). -/
  wire        : List WireItem
  /-- The event trace, oldest first (20_memory.md R42). -/
  trace       : List Entry
  /-- The model's own: the turns to come. -/
  schedule    : List Turn
  /-- The model's own: how many steps have been taken; the free values are applied to it. -/
  tick        : Nat
  deriving DecidableEq, Repr

/-- The faults that stop the machine: none. The block's one fault, `FLT_WRITE_BEFORE_BEGIN`, is a state of the machine
that a reset leaves (60_exceptions.md R110, R111), so raising it is a next state. Safe: nothing is cut short. -/
inductive Fault where
  deriving DecidableEq, Repr

/-- The refusals. -/
inductive Refusal where
  /-- Raised by an arm of `exec` whose instruction has no meaning yet; no arm is left so. Safe. -/
  | notModelled (mnemonic : String)
  /-- Raised by a step whose turn is `Move.breach`: the pin or SPI collaborator departs from its contract, and
  "this spec claims nothing" (42_spi_bus.md R103; 93_implementation_defined.md U2, U4: refuse). Safe. -/
  | collaboratorContractBroken
  deriving DecidableEq, Repr

/-- The block just constructed with this chip-select line (40_begin.md R71; 70_reset_and_hazards.md R123, R124).
`cs_out`, `cfg` and `frame` are UNSPECIFIED there; DESIGN CHOICE: zero (log 4, 5, 6, unsafe). The environment is the
usual launch premise: the bus is free (log 13), the host presents nothing (log 12), nothing has happened yet (log 28). -/
def State.construct (line : LineId) : State where
  csLine      := line
  cfg         := { clockHz := 0#32, bitOrder := false, mode := 0#2 }
  csOe        := false
  csOut       := false
  initialized := false
  fault       := .none
  frame       := 0#16
  phase       := .idle
  req         := .none
  cmdValid    := false
  cmd         := 0#21
  spiRdata    := 0#8
  bus         := none
  foreignReqs := []
  wire        := []
  trace       := []
  schedule    := []
  tick        := 0

/-- The machine right after reset. `CS_LINE` is the construction argument; DESIGN CHOICE: line 0 (log 7). -/
def State.reset : State := State.construct 0

end Sys2Proof.Machine
end

