-- ==== Sys2Proof/Machine/Flags.lean ====
section
/-! DEFINITION. What the state shows: the codes of the control registers, the status bits, the ports, the level of the CS
line and whether the block holds the bus (10_state.md R17, R19, R22, R23, R25 to R29). -/

namespace Sys2Proof.Machine

/-- The 4-bit code of a phase (10_state.md R22). -/
def phaseCode : Phase → BitVec 4
  | .idle => 0x0#4
  | .bPinMode => 0x1#4
  | .bSetHigh => 0x2#4
  | .bSpiInit => 0x3#4
  | .wCsLow => 0x4#4
  | .wOpen => 0x5#4
  | .wXfer0 => 0x6#4
  | .wXfer1 => 0x7#4
  | .wClose => 0x8#4
  | .wCsHigh => 0x9#4
  | .fault => 0xF#4

/-- The 2-bit code of a request state (10_state.md R23). -/
def reqCode : ReqState → BitVec 2
  | .none => 0#2
  | .wait => 1#2
  | .ack => 2#2

/-- The 2-bit fault code (10_state.md R19). -/
def faultCode : FaultCode → BitVec 2
  | .none => 0#2
  | .writeBeforeBegin => 1#2

/-- The 2-bit code of a collaborator operation (30_encoding.md R56). -/
def spiOpCode : SpiOp → BitVec 2
  | .spiInit => 0b00#2
  | .spiBegin => 0b01#2
  | .spiXfer => 0b10#2
  | .spiEnd => 0b11#2

/-- The operation of a request. -/
def requestOp : Request → SpiOp
  | .spiInit => .spiInit
  | .spiBegin _ => .spiBegin
  | .spiXfer _ => .spiXfer
  | .spiEnd => .spiEnd

/-- `cmd_ready = (phase = IDLE)` (10_state.md R26). -/
def cmdReady (s : State) : Bool :=
  s.phase == .idle

/-- `busy = (phase != IDLE)` (10_state.md R26). -/
def busy (s : State) : Bool :=
  s.phase != .idle

/-- `status` (10_state.md R27): bit 0 `busy`, bit 1 `initialized`, bits 3 to 2 `fault`. -/
def status (s : State) : BitVec 4 :=
  faultCode s.fault ++ BitVec.ofBool s.initialized ++ BitVec.ofBool (busy s)

/-- The phases that carry an SPI request (10_state.md R23). -/
def isSpiPhase : Phase → Bool
  | .bSpiInit | .wOpen | .wXfer0 | .wXfer1 | .wClose => true
  | .idle | .bPinMode | .bSetHigh | .wCsLow | .wCsHigh | .fault => false

/-- The request of the current SPI phase, issued or not (40_begin.md R66; 41_write.md R79 to R82). -/
def phaseRequest (s : State) : Option Request :=
  match s.phase with
  | .bSpiInit => some .spiInit
  | .wOpen => some (.spiBegin s.cfg)
  | .wXfer0 => some (.spiXfer (byte0 s.frame))
  | .wXfer1 => some (.spiXfer (byte1 s.frame))
  | .wClose => some .spiEnd
  | .idle | .bPinMode | .bSetHigh | .wCsLow | .wCsHigh | .fault => none

/-- `spi_req = (req = REQ_WAIT)` (10_state.md R29). -/
def spiReq (s : State) : Bool :=
  s.req == .wait

/-- The block's outstanding request: issued and not yet acknowledged; at most one (42_spi_bus.md R95). -/
def outstanding (s : State) : Option Request :=
  if spiReq s then phaseRequest s else none

/-- The SPI request port (10_state.md R29): `spi_op` is the current phase's operation, `spi_cfg` is `cfg`, `spi_wdata`
the byte of the current transfer phase. Outside an SPI phase `spi_op` is not valid, and outside a transfer phase
`spi_wdata` has no meaning: they show values that depend on the phase alone and are free (DESIGN CHOICE, log 36), so
that no port shows what an earlier WRITE left in the frame latch (10_state.md R21). In an SPI phase R29 makes `spi_op`
valid, and `spi_wdata` meaningful, only while `spi_req` = 1; that they show the phase's operation and byte before the
request is issued and after it is acknowledged too is the model's choice (DESIGN CHOICE, log 36, unsafe). -/
def requestPort (s : State) : RequestPort where
  op    := match phaseRequest s with
    | some r => spiOpCode (requestOp r)
    | none => Config.unusedSpiOp s.phase
  cfg   := packCfg s.cfg
  wdata := match s.phase with
    | .wXfer0 => byte0 s.frame
    | .wXfer1 => byte1 s.frame
    | .idle | .bPinMode | .bSetHigh | .bSpiInit | .wCsLow | .wOpen | .wClose | .wCsHigh | .fault =>
      Config.unusedSpiWdata s.phase

/-- The level of the CS line as the receiver sees it (10_state.md R17). -/
def lineLevel (s : State) : Bool :=
  if s.csOe then s.csOut else Config.pinFloatLevel s.tick

/-- The block holds the bus (10_state.md R25). -/
def holdsBus (s : State) : Bool :=
  match s.phase, s.req with
  | .wXfer0, _ => true
  | .wXfer1, _ => true
  | .wOpen, .ack => true
  | .wClose, .none => true
  | .wClose, .wait => true
  | _, _ => false

/-- `bus_owner` (42_spi_bus.md R94). -/
def busOwner (s : State) : Option BusOwner :=
  s.bus.map Transaction.owner

end Sys2Proof.Machine
end

