-- ==== Sys2Proof/Machine/Ops.lean ====
section
/-! DEFINITION. The named operations over the state: events, the pin primitives, the three-way step of an SPI phase, the
SPI collaborator's acknowledgement, raising the fault, and the reset that alone leaves it. -/

namespace Sys2Proof.Machine

/-- `Emit(e)` by an agent: append to the event trace (00_scope.md R9). -/
def emit (a : Agent) (e : Event) (s : State) : State :=
  { s with trace := s.trace ++ [⟨a, e⟩] }

/-- Append to the log of the wires. -/
def putWire (items : List WireItem) (s : State) : State :=
  { s with wire := s.wire ++ items }

/-- `phase <- P` (00_scope.md R9). -/
def setPhase (p : Phase) (s : State) : State :=
  { s with phase := p }

/-- `req <- r` (10_state.md R23). -/
def setReq (r : ReqState) (s : State) : State :=
  { s with req := r }

/-- The pin primitive "configure as output" (10_state.md R16): the line shows `cs_out` from now on. -/
def configureOutput (s : State) : State :=
  emit .sequencer (.pinOutput s.csLine) (putWire [.cs (some s.csOut)] { s with csOe := true })

/-- The pin primitives "set high" and "set low" (10_state.md R16). -/
def driveCs (level : Bool) (s : State) : State :=
  emit .sequencer (.pinWrite s.csLine level)
    (putWire [.cs (if s.csOe then some level else none)] { s with csOut := level })

/-- The three-way step of an SPI phase (10_state.md R24): issue, hold, or consume the acknowledgement. -/
def spiPhase (r : Request) (complete : State → State) (next : Phase) (s : State) : State :=
  match s.req with
  | .none => emit .sequencer (.spiReq r) (setReq .wait s)
  | .wait => s
  | .ack => setPhase next (complete (setReq .none s))

/-- The precondition of an operation for a requester (42_spi_bus.md R97 to R101).
A foreign transfer is acknowledged only while this block does not own the bus (R101); that a foreign transaction
also keeps other foreign transfers out is not the block's concern and is left open (log 14). -/
def grantable (who : Requester) (r : Request) (s : State) : Bool :=
  match r, who with
  | .spiInit, _ => true
  | .spiBegin _, _ => s.bus.isNone
  | .spiXfer _, .thisBlock => busOwner s == some .thisBlock
  | .spiXfer _, .foreign _ => busOwner s != some .thisBlock
  | .spiEnd, _ => busOwner s == some (ownerOf who)

/-- The bit order of a transfer made now: that of the open transaction (42_spi_bus.md R98), else a free value (log 15). -/
def transferBitOrder (s : State) : Bool :=
  match s.bus with
  | some t => t.cfg.bitOrder
  | none => Config.untransactedBitOrder s.tick

/-- The effect of an operation on the bus (42_spi_bus.md R97 to R100). The byte this block's XFER returns is left on
`spi_rdata`; it is a free value and nothing reads it (R102, log 11). -/
def performOp (who : Requester) (r : Request) (s : State) : State :=
  match r with
  | .spiInit => s
  | .spiBegin c => putWire [.config c] { s with bus := some ⟨ownerOf who, c⟩ }
  | .spiXfer b =>
    putWire ((byteBits (transferBitOrder s) b).map (WireItem.bit who))
      { s with spiRdata := if who = .thisBlock then Config.receivedByte s.tick else s.spiRdata }
  | .spiEnd => { s with bus := none }

/-- The acknowledgement step for this block (42_spi_bus.md R96): enabled when this request is outstanding and its
precondition holds; otherwise nothing happens, and the request stays outstanding. -/
def answer (r : Request) (s : State) : State :=
  if outstanding s = some r ∧ grantable .thisBlock r s = true then
    emit .spiCollaborator (.spiAck .thisBlock (requestOp r)) (setReq .ack (performOp .thisBlock r s))
  else s

/-- `raise Fault(code)` (60_exceptions.md R110): the one way a command takes an exception. The block has no saved
registers, no mode and no vector (60_exceptions.md R116). -/
def raiseFault (code : FaultCode) (s : State) : State :=
  emit .sequencer (.fault code) { s with fault := code, phase := .fault }

/-- The reset step (70_reset_and_hazards.md R123): the only way out of FAULT (60_exceptions.md R111). `cs_out`, `cfg`
and `frame` take free values (log 8); a held bus is released when `BUS_RELEASE_ON_RESET` holds (log 10, log 33). -/
def resetStep (s : State) : State :=
  emit .reset .reset (putWire [.cs none]
    { s with
      phase       := .idle
      req         := .none
      initialized := false
      fault       := .none
      csOe        := false
      csOut       := Config.resetCsOut s.tick
      cfg         := Config.resetCfg s.tick
      frame       := Config.resetFrame s.tick
      bus         := if holdsBus s && Config.busReleaseOnReset then none else s.bus })

end Sys2Proof.Machine
end

