-- ==== Sys2Proof/Machine/Begin.lean ====
section
/-! DEFINITION. BEGIN (40_begin.md). -/

namespace Sys2Proof.Machine

/-- The last action of BEGIN (40_begin.md R67): fix the configuration, set `initialized`, and report completion. -/
def beginComplete (s : State) : State :=
  emit .sequencer .cmdDone { s with cfg := cfgDac, initialized := true }

/-- BEGIN's micro-step in each of its phases, line by line as in 40_begin.md R62. In a phase of a WRITE or in FAULT a
BEGIN is not accepted and nothing changes (10_state.md R26; 60_exceptions.md R111, R112). -/
def execBegin (ignored : BitVec 20) (s : State) : Host.Outcome State Fault Refusal :=
  match s.phase with
  | .idle => .next (setPhase .bPinMode (emit .sequencer (.cmdAccept (encodeBegin ignored)) s))
  | .bPinMode => .next (setPhase .bSetHigh (configureOutput s))
  | .bSetHigh => .next (setPhase .bSpiInit (driveCs true s))
  | .bSpiInit => .next (spiPhase .spiInit beginComplete .idle s)
  | .wCsLow | .wOpen | .wXfer0 | .wXfer1 | .wClose | .wCsHigh | .fault => .next s

end Sys2Proof.Machine
end

