-- ==== Sys2Proof/Machine/Spi.lean ====
section
/-! DEFINITION. The SPI collaborator's operations (42_spi_bus.md R96 to R100): the acknowledgement step of the block's
outstanding request. Where the request is not outstanding or its precondition does not hold, the step is not enabled
and nothing changes. -/

namespace Sys2Proof.Machine

/-- SPI.INIT (42_spi_bus.md R97). -/
def execSpiInit (s : State) : Host.Outcome State Fault Refusal :=
  .next (answer .spiInit s)

/-- SPI.BEGIN (42_spi_bus.md R98). -/
def execSpiBegin (cfg : BusCfg) (s : State) : Host.Outcome State Fault Refusal :=
  .next (answer (.spiBegin cfg) s)

/-- SPI.XFER (42_spi_bus.md R99). -/
def execSpiXfer (byte : Byte) (s : State) : Host.Outcome State Fault Refusal :=
  .next (answer (.spiXfer byte) s)

/-- SPI.END (42_spi_bus.md R100). -/
def execSpiEnd (s : State) : Host.Outcome State Fault Refusal :=
  .next (answer .spiEnd s)

end Sys2Proof.Machine
end

