-- ==== Sys2Proof/Machine/Write.lean ====
section
/-! DEFINITION. WRITE (41_write.md). -/

namespace Sys2Proof.Machine

/-- The acceptance of a WRITE (41_write.md R77): it faults before the first BEGIN has completed, and otherwise latches the
frame. -/
def acceptWrite (ch buf g1x act : Bool) (value : BitVec 16) (s : State) : State :=
  let s' := emit .sequencer (.cmdAccept (encodeWrite ch buf g1x act value)) s
  if s.initialized then
    setPhase .wCsLow { s' with frame := pack ch buf g1x act value }
  else
    raiseFault .writeBeforeBegin s'

/-- WRITE's micro-step in each of its phases, line by line as in 41_write.md R72. The operands are read at acceptance
only (R77); later phases read the latched frame. In a phase of BEGIN or in FAULT a WRITE is not accepted and nothing
changes (10_state.md R26; 60_exceptions.md R111, R112). -/
def execWrite (ch buf g1x act : Bool) (value : BitVec 16) (s : State) : Host.Outcome State Fault Refusal :=
  match s.phase with
  | .idle => .next (acceptWrite ch buf g1x act value s)
  | .wCsLow => .next (setPhase .wOpen (driveCs false s))
  | .wOpen => .next (spiPhase (.spiBegin s.cfg) id .wXfer0 s)
  | .wXfer0 => .next (spiPhase (.spiXfer (byte0 s.frame)) id .wXfer1 s)
  | .wXfer1 => .next (spiPhase (.spiXfer (byte1 s.frame)) id .wClose s)
  | .wClose => .next (spiPhase .spiEnd id .wCsHigh s)
  | .wCsHigh => .next (setPhase .idle (emit .sequencer .cmdDone (driveCs true s)))
  | .bPinMode | .bSetHigh | .bSpiInit | .fault => .next s

end Sys2Proof.Machine
end

