-- ==== Sys2Proof/Machine/Dispatch.lean ====
section
/-! DEFINITION. One micro-step of an instruction: one arm per constructor of Instr. -/

namespace Sys2Proof.Machine

def exec (i : Instr) (s : State) : Host.Outcome State Fault Refusal :=
  match i with
  | .beginCmd ignored => Sys2Proof.Machine.execBegin ignored s
  | .writeCmd ch buf g1x act value => Sys2Proof.Machine.execWrite ch buf g1x act value s
  | .spiInit => Sys2Proof.Machine.execSpiInit s
  | .spiBegin cfg => Sys2Proof.Machine.execSpiBegin cfg s
  | .spiXfer byte => Sys2Proof.Machine.execSpiXfer byte s
  | .spiEnd => Sys2Proof.Machine.execSpiEnd s

end Sys2Proof.Machine
end

