-- ==== Sys2Proof/Machine/Fetch.lean ====
section
/-! DEFINITION. Which agent moves, what the mover executes, and what the moves of the environment do
(10_state.md R11; 20_memory.md R44, R48). There is no instruction memory: a command comes from the host port and a
collaborator operation from the request port. -/

namespace Sys2Proof.Machine

/-- The turn of this step: the schedule's first, and a free value once the schedule is used up (log 2). -/
def turnOf (s : State) : Turn :=
  match s.schedule with
  | t :: _ => t
  | [] => Config.freeTurn s.tick

/-- The turn is taken: it leaves the schedule, and the step counter advances. -/
def takeTurn (s : State) : State :=
  { s with schedule := s.schedule.tail, tick := s.tick + 1 }

/-- What the sequencer executes next: in IDLE the command the host presents, if any (10_state.md R26); in a phase of a
command that command. A running WRITE's operands are those its frame keeps; it reads none of them again (41_write.md
R77). In FAULT nothing (60_exceptions.md R111). -/
def sequencerInstr (s : State) : Option Instr :=
  match s.phase with
  | .idle => if s.cmdValid then some (decodeCommand s.cmd) else none
  | .bPinMode | .bSetHigh | .bSpiInit => some (.beginCmd 0#20)
  | .wCsLow | .wOpen | .wXfer0 | .wXfer1 | .wClose | .wCsHigh => some (frameCommand s.frame)
  | .fault => none

/-- What the mover executes: the sequencer its command, the SPI collaborator the operation the request port shows. -/
def fetch (m : Move) (s : State) : Option Instr :=
  match m with
  | .sequencer => sequencerInstr s
  | .acknowledge .thisBlock => if spiReq s then some (decodeRequest (requestPort s)) else none
  | .acknowledge (.foreign _) | .present _ | .withdraw | .foreignRequest _ _ | .foreignReset _ | .breach =>
    none

/-- A foreign user issues a request, if it has none outstanding (20_memory.md R42, R43). -/
def issueForeign (user : Nat) (r : Request) (s : State) : State :=
  if s.foreignReqs.any (fun p => p.1 == user) then s
  else emit (.foreignUser user) (.spiReq r) { s with foreignReqs := s.foreignReqs ++ [(user, r)] }

/-- The acknowledgement step for a foreign user (42_spi_bus.md R96, R101), enabled as for this block. -/
def answerForeign (user : Nat) (s : State) : State :=
  match s.foreignReqs.find? (fun p => p.1 == user) with
  | some (_, r) =>
    if grantable (.foreign user) r s then
      emit .spiCollaborator (.spiAck (.foreign user) (requestOp r))
        (performOp (.foreign user) r { s with foreignReqs := s.foreignReqs.filter (fun p => p.1 != user) })
    else s
  | none => s

/-- Another instance of the block is reset (60_exceptions.md R120; 70_reset_and_hazards.md R123): its outstanding request
is abandoned, and a bus it holds is released or stays its own for ever, by its own `BUS_RELEASE_ON_RESET` (log 10). -/
def resetForeign (user : Nat) (s : State) : State :=
  emit (.foreignReset user) .reset
    { s with
      foreignReqs := s.foreignReqs.filter (fun p => p.1 != user)
      bus := match s.bus with
        | some t =>
          if t.owner = .foreign user then
            if Config.foreignReleaseOnReset user then none else some { t with owner := .stranded user }
          else some t
        | none => none }

/-- A move that executes no instruction: those of the host and of foreign users, a mover with nothing enabled
(nothing changes), and a departure from the collaborator contract (refused: 42_spi_bus.md R103). -/
def environment (m : Move) (s : State) : Host.Outcome State Fault Refusal :=
  match m with
  | .sequencer => .next s
  | .present cmd => .next { s with cmdValid := true, cmd := cmd }
  | .withdraw => .next { s with cmdValid := false }
  | .acknowledge .thisBlock => .next s
  | .acknowledge (.foreign user) => .next (answerForeign user s)
  | .foreignRequest user r => .next (issueForeign user r s)
  | .foreignReset user => .next (resetForeign user s)
  | .breach => .refused .collaboratorContractBroken

/-- The host presents this command word to an idle block, and the sequencer moves next. -/
def placeCommand (w : CmdWord) (s : State) : State :=
  { s with phase := .idle, req := .none, cmdValid := true, cmd := w, schedule := ⟨false, .sequencer⟩ :: s.schedule }

/-- The block has issued this request and its precondition holds, and the SPI collaborator moves next. -/
def placeRequest (r : Request) (s : State) : State :=
  let s' := { s with req := .wait, schedule := ⟨false, .acknowledge .thisBlock⟩ :: s.schedule }
  match r with
  | .spiInit => { s' with phase := .bSpiInit }
  | .spiBegin c => { s' with phase := .wOpen, cfg := c, bus := none }
  | .spiXfer b =>
    { s' with phase := .wXfer0, frame := b ++ s.frame.extractLsb' 0 8, bus := some ⟨.thisBlock, s.cfg⟩ }
  | .spiEnd => { s' with phase := .wClose, bus := some ⟨.thisBlock, s.cfg⟩ }

/-- Place an instruction where the next step fetches it. -/
def placeInstr (i : Instr) (s : State) : State :=
  match i with
  | .beginCmd ignored => placeCommand (encodeBegin ignored) s
  | .writeCmd ch buf g1x act value => placeCommand (encodeWrite ch buf g1x act value) s
  | .spiInit => placeRequest .spiInit s
  | .spiBegin cfg => placeRequest (.spiBegin cfg) s
  | .spiXfer byte => placeRequest (.spiXfer byte) s
  | .spiEnd => placeRequest .spiEnd s

end Sys2Proof.Machine
end

