-- ==== Sys2Proof/Machine/Step.lean ====
section
/-! DEFINITION. One step of the machine: one agent takes one step, or a reset step pre-empts it (10_state.md R11;
70_reset_and_hazards.md R123). -/

namespace Sys2Proof.Machine

/-- Take the turn. A reset step has priority (70_reset_and_hazards.md R123); otherwise the mover executes what it
fetches, or, where it fetches nothing, makes its own move. -/
def step (s : State) : Host.Outcome State Fault Refusal :=
  if (turnOf s).rst then
    .next (resetStep (takeTurn s))
  else
    match fetch (turnOf s).move (takeTurn s) with
    | some i => exec i (takeTurn s)
    | none => environment (turnOf s).move (takeTurn s)

/-- `s` with the instruction of this table word where the next step fetches it; `s` itself where the word is none. -/
def State.withFetchWord (s : State) (nbits w : Nat) : State :=
  match decodeTableWord nbits w with
  | some i => placeInstr i s
  | none => s

end Sys2Proof.Machine
end

