-- ==== Sys2Proof/Machine/Assembler.lean ====
section
/-! DEFINITION. The assembler of 30_encoding.md R58 to R61: a line of text to a command. -/

namespace Sys2Proof.Machine

/-- Why a line is rejected (30_encoding.md R58, R60). -/
inductive AsmError where
  /-- The line begins with neither BEGIN nor WRITE. -/
  | unknownMnemonic
  /-- BEGIN with operands, or WRITE with a number of operands other than 1, 2 or 5. -/
  | wrongOperandCount
  /-- A `ch`, `buf`, `g1x` or `act` that is not written 0, 1, false or true. -/
  | badFlag
  /-- A `value` that is no decimal or 0x-hexadecimal integer from 0 to 65535. -/
  | badValue
  deriving DecidableEq, Repr

/-- What separates words on a line. -/
def isBlank (c : Char) : Bool :=
  c == ' ' || c == '\t' || c == '\r'

/-- A text without the blanks at its ends. -/
def trimBlanks (t : List Char) : List Char :=
  ((t.dropWhile isBlank).reverse.dropWhile isBlank).reverse

/-- The parts of a text between separators. -/
def splitAtChar (sep : Char) : List Char → List (List Char)
  | [] => [[]]
  | c :: cs =>
    if c == sep then [] :: splitAtChar sep cs
    else match splitAtChar sep cs with
      | [] => [[c]]
      | w :: ws => (c :: w) :: ws

/-- A decimal digit's value. -/
def decimalDigit (c : Char) : Option Nat :=
  if '0' ≤ c ∧ c ≤ '9' then some (c.toNat - '0'.toNat) else none

/-- A hexadecimal digit's value; letters of either case (log 26). -/
def hexDigit (c : Char) : Option Nat :=
  if 'a' ≤ c ∧ c ≤ 'f' then some (c.toNat - 'a'.toNat + 10)
  else if 'A' ≤ c ∧ c ≤ 'F' then some (c.toNat - 'A'.toNat + 10)
  else decimalDigit c

/-- The number that digits after `acc` spell. -/
def readDigits (base : Nat) (digit : Char → Option Nat) (acc : Nat) : List Char → Option Nat
  | [] => some acc
  | c :: cs =>
    match digit c with
    | some d => readDigits base digit (acc * base + d) cs
    | none => none

/-- The number a non-empty text spells. -/
def readNumber : List Char → Option Nat
  | [] => none
  | ['0', 'x'] => none
  | '0' :: 'x' :: ds => readDigits 16 hexDigit 0 ds
  | ds => readDigits 10 decimalDigit 0 ds

/-- `ch`, `buf`, `g1x` and `act` are each written 0, 1, false or true (30_encoding.md R58). -/
def readFlag (t : List Char) : Except AsmError Bool :=
  if t = ['0'] ∨ t = ['f', 'a', 'l', 's', 'e'] then .ok false
  else if t = ['1'] ∨ t = ['t', 'r', 'u', 'e'] then .ok true
  else .error .badFlag

/-- `value` is an integer from 0 to 65535 (30_encoding.md R58); larger does not fit `VALUE_W`. -/
def readValue (t : List Char) : Except AsmError (BitVec 16) :=
  match readNumber t with
  | some n => if n ≤ 65535 then .ok (BitVec.ofNat 16 n) else .error .badValue
  | none => .error .badValue

/-- The full form of WRITE (30_encoding.md R58). -/
def assembleFull (ch buf g1x act value : List Char) : Except AsmError Instr :=
  match readFlag ch, readFlag buf, readFlag g1x, readFlag act, readValue value with
  | .ok c, .ok b, .ok g, .ok a, .ok v => .ok (.writeCmd c b g a v)
  | .ok _, .ok _, .ok _, .ok _, .error e => .error e
  | _, _, _, _, _ => .error .badFlag

/-- The three WRITE forms are told apart by operand count: 1, 2 or 5 (30_encoding.md R59, R60). -/
def assembleWrite : List (List Char) → Except AsmError Instr
  | [value] => assembleFull ['0'] ['0'] ['1'] ['1'] value
  | [ch, value] => assembleFull ch ['0'] ['1'] ['1'] value
  | [ch, buf, g1x, act, value] => assembleFull ch buf g1x act value
  | _ => .error .wrongOperandCount

/-- One line (30_encoding.md R58): a `;` starts a comment, and a line with nothing else is no command. -/
def assembleLine (line : List Char) : Except AsmError (Option Instr) :=
  let text := trimBlanks (line.takeWhile (· != ';'))
  let mnemonic := text.takeWhile (fun c => !isBlank c)
  let rest := trimBlanks (text.dropWhile (fun c => !isBlank c))
  if text = [] then .ok none
  else if mnemonic = ['B', 'E', 'G', 'I', 'N'] then
    if rest = [] then .ok (some (.beginCmd 0#20)) else .error .wrongOperandCount
  else if mnemonic = ['W', 'R', 'I', 'T', 'E'] then
    if rest = [] then .error .wrongOperandCount
    else match assembleWrite ((splitAtChar ',' rest).map trimBlanks) with
      | .ok i => .ok (some i)
      | .error e => .error e
  else .error .unknownMnemonic

/-- The lines of a program in order; the first rejected line rejects it (30_encoding.md R58: one command a line). -/
def assembleLines : List (List Char) → Except AsmError (List Instr)
  | [] => .ok []
  | l :: ls =>
    match assembleLine l, assembleLines ls with
    | .error e, _ => .error e
    | .ok _, .error e => .error e
    | .ok none, .ok is => .ok is
    | .ok (some i), .ok is => .ok (i :: is)

/-- A program text. -/
def assembleProgram (text : List Char) : Except AsmError (List Instr) :=
  assembleLines (splitAtChar '\n' text)

end Sys2Proof.Machine
end

