-- ==== Sys2Proof/Machine/Receiver.lean ====
section
/-! DEFINITION. The receiving DAC as the spec describes it (42_spi_bus.md R105, R107, R108): a view over the log of the
wires. No rule of the block depends on it. Its analogue output is out of scope (00_scope.md R5(b)). -/

namespace Sys2Proof.Machine

/-- The output gain (30_encoding.md R49). -/
inductive Gain where
  | x1
  | x2
  deriving DecidableEq, Repr

/-- The state of the output stage (30_encoding.md R49). -/
inductive OutputStage where
  | active
  | shutdown
  deriving DecidableEq, Repr

/-- What a frame sets at the output it addresses (42_spi_bus.md R108). -/
structure Setting where
  buffered : Bool
  gain     : Gain
  stage    : OutputStage
  value    : BitVec 12
  deriving DecidableEq, Repr

/-- The setting a frame carries (30_encoding.md R49; 42_spi_bus.md R108). -/
def settingOf (f : FrameWord) : Setting where
  buffered := f.getLsbD 14
  gain     := if f.getLsbD 13 then .x1 else .x2
  stage    := if f.getLsbD 12 then .active else .shutdown
  value    := f.extractLsb' 0 12

/-- The receiver's side of the wires. `outA` and `outB` are what the last frame taken set there; `none` where the spec
makes no claim: before a first frame, and once the receiver has met framing on which the spec is silent
(93_implementation_defined.md V14; log 21). -/
structure Receiver where
  /-- The level of CS the block drives, `none` while it drives none. -/
  cs          : Option Bool
  /-- Whether the bus clock idles high (70_reset_and_hazards.md R132). -/
  sckIdleHigh : Bool
  /-- The bits sampled in the present or last CS-low interval, first sampled first. -/
  bits        : List Bool
  /-- Nothing but this block's own bits has reached the receiver in this CS-low interval. -/
  clean       : Bool
  outA        : Option Setting
  outB        : Option Setting
  deriving DecidableEq, Repr

/-- The receiver before anything has happened; the bus clock idles low (70_reset_and_hazards.md R132's premise). -/
def Receiver.start : Receiver where
  cs          := none
  sckIdleHigh := false
  bits        := []
  clean       := false
  outA        := none
  outB        := none

/-- The receiver has met framing on which the spec makes no claim. -/
def noClaim (r : Receiver) : Receiver :=
  { r with clean := false, outA := none, outB := none }

/-- The word that bits sampled most-significant first spell (42_spi_bus.md R105). -/
def wordOfBits (bits : List Bool) : FrameWord :=
  bits.foldl (fun w b => w <<< 1 ||| (BitVec.ofBool b).setWidth 16) 0#16

/-- The receiver takes the frame as a whole, for the output it addresses (42_spi_bus.md R107): the channel bit counts on
the dual-output chip only (R108). -/
def takeFrame (dual : Bool) (f : FrameWord) (r : Receiver) : Receiver :=
  if dual && f.getLsbD 15 then { r with outB := some (settingOf f) } else { r with outA := some (settingOf f) }

/-- A data bit is sampled (42_spi_bus.md R104, R105); the sixteenth of a clean interval completes the frame (R107). A
foreign bit, or a seventeenth, is framing without a claim (70_reset_and_hazards.md R130). -/
def sampleBit (dual : Bool) (who : Requester) (b : Bool) (r : Receiver) : Receiver :=
  let bits := r.bits ++ [b]
  let r' := { r with bits := bits }
  if who = .thisBlock ∧ r.clean = true ∧ bits.length ≤ 16 then
    if bits.length = 16 then takeFrame dual (wordOfBits bits) r' else r'
  else noClaim r'

/-- The CS line changes. An interval starts when it falls from high; it ends with a claim when it rises after exactly one
clean frame. A line the block does not drive may show any level, so nothing is claimed of it
(70_reset_and_hazards.md R131, R134). DESIGN CHOICE (log 34, unsafe): whatever framing came before, the next fall of
CS from high starts a new count, and a clean frame in that interval is taken. -/
def csChange (level : Option Bool) (r : Receiver) : Receiver :=
  match r.cs, level with
  | some true, some true => r
  | some true, some false => { r with cs := some false, bits := [], clean := true }
  | some false, some false => r
  | some false, some true =>
    if r.clean = true ∧ r.bits.length = 16 then { r with cs := some true } else noClaim { r with cs := some true }
  | none, some l => noClaim { r with cs := some l, bits := [] }
  | _, none => noClaim { r with cs := none, bits := [] }

/-- The collaborator applies a configuration: the bus clock moves to its idle level, `mode[1]` (10_state.md R15), and if
that is a change while CS is not high the count of edges is not claimed (70_reset_and_hazards.md R132). DESIGN CHOICE
(log 35, unsafe): nothing else moves the idle level; it stays after END and under a transfer outside every transaction. -/
def clockChange (c : BusCfg) (r : Receiver) : Receiver :=
  let high := c.mode.getLsbD 1
  if high = r.sckIdleHigh ∨ r.cs = some true then { r with sckIdleHigh := high }
  else noClaim { r with sckIdleHigh := high }

/-- What one item of the wire log does to the receiver. A bit counts while CS is low, and leaves the idle level of the
clock as the last applied configuration set it, also outside every transaction (DESIGN CHOICE, log 35). -/
def observe (dual : Bool) (r : Receiver) (item : WireItem) : Receiver :=
  match item with
  | .cs level => csChange level r
  | .config c => clockChange c r
  | .bit who b =>
    match r.cs with
    | some true => r
    | some false => sampleBit dual who b r
    | none => noClaim r

/-- The receiver after everything that has happened on the wires. -/
def receiver (s : State) : Receiver :=
  s.wire.foldl (observe Config.receiverIsDual) Receiver.start

end Sys2Proof.Machine
end

