-- ==== Sys2Proof/Safety.lean ====
section
/-! DEFINITION. The terms in which claims speak of runs: the invariant, what the trace of a run must look like, how far a
command still is from its end, and what a good end is. -/

namespace Sys2Proof.Safety

open Sys2Proof.Machine

/-- The phases of a write sequence. -/
def isWritePhase : Phase → Bool
  | .wCsLow | .wOpen | .wXfer0 | .wXfer1 | .wClose | .wCsHigh => true
  | .idle | .bPinMode | .bSetHigh | .bSpiInit | .fault => false

/-- The phases in which CS is low (10_state.md R31). -/
def isCsLowPhase : Phase → Bool
  | .wOpen | .wXfer0 | .wXfer1 | .wClose | .wCsHigh => true
  | .idle | .bPinMode | .bSetHigh | .bSpiInit | .wCsLow | .fault => false

/-- A request is on its way only in an SPI phase (10_state.md R23, R32). -/
abbrev ReqOnlyInSpiPhase (s : State) : Prop :=
  s.req ≠ .none → isSpiPhase s.phase = true

/-- A write sequence runs only after a BEGIN has completed (41_write.md R77; 10_state.md R32). -/
abbrev WriteOnlyInitialized (s : State) : Prop :=
  isWritePhase s.phase = true → s.initialized = true

/-- Once initialized, CS is driven, and low exactly in the CS-low phases (10_state.md R31). -/
abbrev CsFollowsPhase (s : State) : Prop :=
  s.initialized = true → s.csOe = true ∧ (s.csOut = false ↔ isCsLowPhase s.phase = true)

/-- Once initialized, the configuration is `CFG_DAC` (10_state.md R15). -/
abbrev CfgFixed (s : State) : Prop :=
  s.initialized = true → s.cfg = cfgDac

/-- While the block holds the bus, it owns the open transaction, with its own configuration (10_state.md R25;
42_spi_bus.md R98). -/
abbrev HeldBusIsOwned (s : State) : Prop :=
  holdsBus s = true → s.bus = some ⟨.thisBlock, s.cfg⟩

/-- The block owns the bus only while it holds it, or where a reset did not release it (70_reset_and_hazards.md R123). -/
abbrev OwnedBusIsHeld (s : State) : Prop :=
  busOwner s = some .thisBlock → holdsBus s = true ∨ Config.busReleaseOnReset = false

/-- The block is in FAULT exactly when a fault is recorded, and then no BEGIN has completed (60_exceptions.md R110). -/
abbrev FaultIsRecorded (s : State) : Prop :=
  (s.phase = .fault ↔ s.fault ≠ .none) ∧ (s.phase = .fault → s.initialized = false)

/-- BEGIN has driven the pin by the time it needs it (40_begin.md R64, R65). -/
abbrev BeginDrivesPin (s : State) : Prop :=
  (s.phase = .bSetHigh → s.csOe = true) ∧ (s.phase = .bSpiInit → s.csOe = true ∧ s.csOut = true)

/-- A foreign user has at most one request outstanding. -/
abbrev ForeignDistinct (s : State) : Prop :=
  (s.foreignReqs.map Prod.fst).Nodup

/-- The invariant of the machine. -/
abbrev Inv (s : State) : Prop :=
  ReqOnlyInSpiPhase s ∧ WriteOnlyInitialized s ∧ CsFollowsPhase s ∧ CfgFixed s ∧ HeldBusIsOwned s ∧
    OwnedBusIsHeld s ∧ FaultIsRecorded s ∧ BeginDrivesPin s ∧ ForeignDistinct s

/-- The phases that may follow a phase by a micro-step (10_state.md R22; 41_write.md R87): the next in sequence, the
return to IDLE at the end of a command, and the entry to FAULT. -/
def nextPhases : Phase → List Phase
  | .idle => [.bPinMode, .wCsLow, .fault]
  | .bPinMode => [.bSetHigh]
  | .bSetHigh => [.bSpiInit]
  | .bSpiInit => [.idle]
  | .wCsLow => [.wOpen]
  | .wOpen => [.wXfer0]
  | .wXfer0 => [.wXfer1]
  | .wXfer1 => [.wClose]
  | .wClose => [.wCsHigh]
  | .wCsHigh => [.idle]
  | .fault => []

/-- A step of the sequencer is enabled (10_state.md R22, R24, R26). -/
def sequencerEnabled (s : State) : Bool :=
  match s.phase with
  | .idle => s.cmdValid
  | .fault => false
  | .bPinMode | .bSetHigh | .wCsLow | .wCsHigh => true
  | .bSpiInit | .wOpen | .wXfer0 | .wXfer1 | .wClose => s.req != .wait

/-- The acknowledgement step of this block's request is enabled (42_spi_bus.md R96). -/
def acknowledgeEnabled (s : State) : Bool :=
  match outstanding s with
  | some r => grantable .thisBlock r s
  | none => false

/-- The acknowledgement step of a requester's outstanding request is enabled (42_spi_bus.md R96). -/
def acknowledgeEnabledFor (who : Requester) (s : State) : Bool :=
  match who with
  | .thisBlock => acknowledgeEnabled s
  | .foreign user =>
    match s.foreignReqs.find? (fun p => p.1 == user) with
    | some (_, r) => grantable (.foreign user) r s
    | none => false

/-- The steps an SPI phase still takes: issue, acknowledge, consume. -/
def reqLeft : ReqState → Nat
  | .none => 3
  | .wait => 2
  | .ack => 1

/-- How many steps of the sequencer and acknowledgements the running command still takes. -/
def stepsLeft (s : State) : Nat :=
  match s.phase with
  | .idle => 0
  | .fault => 0
  | .bPinMode => 5
  | .bSetHigh => 4
  | .bSpiInit => reqLeft s.req
  | .wCsLow => 14
  | .wOpen => 10 + reqLeft s.req
  | .wXfer0 => 7 + reqLeft s.req
  | .wXfer1 => 4 + reqLeft s.req
  | .wClose => 1 + reqLeft s.req
  | .wCsHigh => 1

/-- `k` steps of the machine. -/
def runFor (k : Nat) (s : State) : Host.Outcome State Fault Refusal :=
  Host.Core.run Sys2Proof.core k s

/-- The turn in which the sequencer moves. -/
def sequencerTurn : Turn := ⟨false, .sequencer⟩

/-- The turn in which the SPI collaborator acknowledges this block's request. -/
def acknowledgeTurn : Turn := ⟨false, .acknowledge .thisBlock⟩

/-- The turns of one SPI phase with nothing in between: issue, acknowledge, consume. -/
def spiTurns : List Turn := [sequencerTurn, acknowledgeTurn, sequencerTurn]

/-- The turns of one BEGIN with nothing in between (40_begin.md R62). -/
def beginTurns : List Turn := [sequencerTurn, sequencerTurn, sequencerTurn] ++ spiTurns

/-- The turns of one WRITE with nothing in between (41_write.md R72). -/
def writeTurns : List Turn :=
  [sequencerTurn, sequencerTurn] ++ spiTurns ++ spiTurns ++ spiTurns ++ spiTurns ++ [sequencerTurn]

/-- An infinite run of the machine: in step `n` it takes the turn `turns n`. -/
def RunUnder (turns : Nat → Turn) (run : Nat → State) : Prop :=
  ∀ n, step { run n with schedule := [turns n] } = .next (run (n + 1))

/-- Fairness assumption (a) of 70_reset_and_hazards.md R127: an acknowledgement step, of whichever requester, that stays
enabled is eventually taken. -/
def CollaboratorWeaklyFair (turns : Nat → Turn) (run : Nat → State) : Prop :=
  ∀ who n, (∀ m, n ≤ m → acknowledgeEnabledFor who (run m) = true) →
    ∃ m, n ≤ m ∧ turns m = ⟨false, .acknowledge who⟩

/-- A stronger form of assumption (a) for this block: an acknowledgement that is enabled again and again is eventually
taken when it is (log 29). -/
def CollaboratorStronglyFair (turns : Nat → Turn) (run : Nat → State) : Prop :=
  ∀ n, (∀ m, n ≤ m → ∃ k, m ≤ k ∧ acknowledgeEnabled (run k) = true) →
    ∃ m, n ≤ m ∧ acknowledgeEnabled (run m) = true ∧ turns m = acknowledgeTurn

/-- Fairness assumption (b) of 70_reset_and_hazards.md R127: a foreign user that owns the bus eventually releases it, by
the acknowledgement of its END (or, for another instance, by a reset that releases it). -/
def ForeignUsersFinish (run : Nat → State) : Prop :=
  ∀ n t, (run n).bus = some t → t.owner ≠ .thisBlock → ∃ m, n ≤ m ∧ (run m).bus = none

/-- Fairness assumption (c) of 70_reset_and_hazards.md R127: a step of the sequencer that stays enabled is eventually
taken. -/
def SequencerWeaklyFair (turns : Nat → Turn) (run : Nat → State) : Prop :=
  ∀ n, (∀ m, n ≤ m → sequencerEnabled (run m) = true) → ∃ m, n ≤ m ∧ turns m = sequencerTurn

/-- The character of a decimal digit (30_encoding.md R58). -/
def decimalChar (d : Fin 10) : Char :=
  Char.ofNat (48 + d.val)

/-- The character of a hexadecimal digit, with letters of either case (30_encoding.md R58; log 26). -/
def hexChar (d : Fin 16 × Bool) : Char :=
  Char.ofNat (if d.1.val < 10 then 48 + d.1.val else if d.2 then 55 + d.1.val else 87 + d.1.val)

/-- The host presents a command in this turn. -/
def presents (t : Turn) : Prop := t.rst = false ∧ ∃ cmd, t.move = .present cmd

/-- The host presents no command in any of the next `k` steps (70_reset_and_hazards.md R126). -/
def HostSilent (k : Nat) (s : State) : Prop :=
  ∀ j u, j < k → runFor j s = .next u → ¬ presents (turnOf u)

/-- A run has ended well, as far as the state shows; that the host presents no further command is `HostSilent`
(70_reset_and_hazards.md R126). -/
def EndedWell (s : State) : Prop :=
  s.phase = .idle ∧ s.req = .none ∧ s.fault = .none ∧ holdsBus s = false ∧ s.cmdValid = false

/-- Whether a command word is a BEGIN (30_encoding.md R52). -/
def isBegin (w : CmdWord) : Bool := !w.getLsbD 20

/-- The events of one BEGIN (40_begin.md R70). -/
def beginEvents (line : LineId) (w : CmdWord) : List Event :=
  [.cmdAccept w, .pinOutput line, .pinWrite line true, .spiReq .spiInit, .spiAck .thisBlock .spiInit, .cmdDone]

/-- The frame of a WRITE's command word: `{cmd[19:16], cmd[11:0]}` (30_encoding.md R51). -/
def frameOf (w : CmdWord) : FrameWord :=
  w.extractLsb' 16 4 ++ w.extractLsb' 0 12

/-- The events of one WRITE after initialisation (41_write.md R85). -/
def writeEvents (line : LineId) (w : CmdWord) : List Event :=
  [.cmdAccept w, .pinWrite line false,
   .spiReq (.spiBegin cfgDac), .spiAck .thisBlock .spiBegin,
   .spiReq (.spiXfer (byte0 (frameOf w))), .spiAck .thisBlock .spiXfer,
   .spiReq (.spiXfer (byte1 (frameOf w))), .spiAck .thisBlock .spiXfer,
   .spiReq .spiEnd, .spiAck .thisBlock .spiEnd,
   .pinWrite line true, .cmdDone]

/-- The events of one command, by whether a BEGIN has completed before it (41_write.md R77; 60_exceptions.md R110). -/
def commandEvents (line : LineId) (initialized : Bool) (w : CmdWord) : List Event :=
  if isBegin w then beginEvents line w
  else if initialized then writeEvents line w
  else [.cmdAccept w, .fault .writeBeforeBegin]

/-- The events of commands that have completed one after another since reset. The first is a BEGIN. -/
def historyEvents (line : LineId) : List CmdWord → List Event
  | [] => []
  | w :: ws => beginEvents line w ++ (ws.map (commandEvents line true)).flatten

/-- An entry of the trace that concerns this block's commands: its own events and the acknowledgements it gets. -/
def isOwn (e : Entry) : Bool :=
  match e.agent, e.event with
  | .sequencer, _ => true
  | .spiCollaborator, .spiAck .thisBlock _ => true
  | _, _ => false

/-- This block's events since the last reset, oldest first. -/
def ownSinceReset (trace : List Entry) : List Event :=
  trace.foldl (fun acc e => if e = ⟨.reset, .reset⟩ then [] else if isOwn e then acc ++ [e.event] else acc) []

/-- An event on the pins or the SPI bus (00_scope.md R10). -/
def isPinOrSpi : Event → Bool
  | .pinOutput _ | .pinWrite _ _ | .spiReq _ | .spiAck _ _ => true
  | .cmdAccept _ | .cmdDone | .fault _ | .reset => false

/-- The event is tagged with an agent that emits its kind, and a pin event names this line (20_memory.md R42, R44;
10_state.md R14). -/
def wellTagged (line : LineId) (e : Entry) : Prop :=
  match e.event with
  | .cmdAccept _ | .cmdDone | .fault _ => e.agent = .sequencer
  | .pinOutput l | .pinWrite l _ => e.agent = .sequencer ∧ l = line
  | .spiReq _ => e.agent = .sequencer ∨ ∃ user, e.agent = .foreignUser user
  | .spiAck _ _ => e.agent = .spiCollaborator
  | .reset => e.agent = .reset ∨ ∃ user, e.agent = .foreignReset user

/-- How many events of the running command are in the trace. -/
def eventsSoFar (s : State) : Nat :=
  match s.phase with
  | .idle => 0
  | .fault => 2
  | .bPinMode => 1
  | .bSetHigh => 2
  | .bSpiInit => 6 - reqLeft s.req
  | .wCsLow => 1
  | .wOpen => 5 - reqLeft s.req
  | .wXfer0 => 7 - reqLeft s.req
  | .wXfer1 => 9 - reqLeft s.req
  | .wClose => 11 - reqLeft s.req
  | .wCsHigh => 10

/-- The running command is `w`: it is of the kind its phase belongs to, and a WRITE's frame is latched. -/
def Running (w : CmdWord) (s : State) : Prop :=
  match s.phase with
  | .idle => False
  | .bPinMode | .bSetHigh | .bSpiInit => isBegin w = true
  | .wCsLow | .wOpen | .wXfer0 | .wXfer1 | .wClose | .wCsHigh => isBegin w = false ∧ s.frame = frameOf w
  | .fault => isBegin w = false

/-- The trace is what the spec says (20_memory.md R43; 40_begin.md R70; 41_write.md R85): since the last reset this
block's events are those of whole commands, a BEGIN first, followed, unless the block is idle, by those the running
command has emitted so far. Other agents' events may stand anywhere between them. -/
def TraceConforms (s : State) : Prop :=
  ∃ done : List CmdWord,
    (∀ w ∈ done.head?, isBegin w = true) ∧ s.initialized = !done.isEmpty ∧
      ((s.phase = .idle ∧ ownSinceReset s.trace = historyEvents s.csLine done) ∨
        ∃ w, Running w s ∧
          ownSinceReset s.trace =
            historyEvents s.csLine done ++ (commandEvents s.csLine s.initialized w).take (eventsSoFar s))

end Sys2Proof.Safety
end

