-- ==== Sys2Proof/Certificates/Slice0/Obligations.lean ====
section
/-! DEFINITION. The statements for the provers. -/

open Sys2Proof Sys2Proof.Machine Sys2Proof.Safety

-- Encodings (30_encoding.md)

/-- Words the spec writes out (95_test_vectors.md §2.1 E1 to E7; 30_encoding.md §3, opcode_table.json). -/
def Obligations.DecodeSpecWords : Prop :=
  decodeCommand 0x000000#21 = .beginCmd 0#20 ∧
  decodeCommand 0x0FFFFF#21 = .beginCmd 0xFFFFF#20 ∧
  decodeCommand 0x100000#21 = .writeCmd false false false false 0#16 ∧
  decodeCommand 0x1FFFFF#21 = .writeCmd true true true true 65535#16 ∧
  decodeCommand 0x1309B0#21 = .writeCmd false false true true 2480#16 ∧
  decodeCommand 0x13F9B0#21 = .writeCmd false false true true 63920#16 ∧
  decodeRequest ⟨0b00#2, 0#35, 0#8⟩ = .spiInit ∧
  decodeRequest ⟨0b01#2, 0x009896804#35, 0#8⟩ = .spiBegin cfgDac ∧
  decodeRequest ⟨0b10#2, 0#35, 0x39#8⟩ = .spiXfer 0x39#8 ∧
  decodeRequest ⟨0b11#2, 0#35, 0#8⟩ = .spiEnd

/-- Every 21-bit word decodes by its bit 20 alone (R52): one of two match/mask rows accepts it, and never both. -/
def Obligations.CommandSelectedByOpBit : Prop :=
  ∀ w : CmdWord,
    (w.getLsbD 20 = false →
      rowMatches rowBegin w = true ∧ rowMatches rowWrite w = false ∧
        decodeCommand w = .beginCmd (w.extractLsb' 0 20)) ∧
    (w.getLsbD 20 = true →
      rowMatches rowBegin w = false ∧ rowMatches rowWrite w = true ∧
        decodeCommand w =
          .writeCmd (w.getLsbD 19) (w.getLsbD 18) (w.getLsbD 17) (w.getLsbD 16) (w.extractLsb' 0 16))

/-- Decoding and encoding agree, both ways: no bit of a command word is lost, and of the request port only the signals
that carry no argument (10_state.md R29). -/
def Obligations.EncodeDecodeAgree : Prop :=
  (∀ i : Instr, decode (encode i) = i) ∧
  (∀ w : CmdWord, encode (decode (.command w)) = .command w) ∧
  (∀ p : RequestPort, encode (decode (.request p)) =
    .request ⟨p.op, if p.op = 0b01#2 then p.cfg else 0#35, if p.op = 0b10#2 then p.wdata else 0#8⟩)

/-- The four codes of `spi_op`, all used, none reserved (R56): what each decodes to with its argument, and the code the
port shows for each operation. That the port shows it in an SPI phase also while `spi_req` = 0 is the model's choice
(log 36); 10_state.md §9 makes `spi_op` valid only while `spi_req` = 1. -/
def Obligations.RequestCodes : Prop :=
  (∀ (c : BusCfg) (cfg : BitVec 35) (b : Byte),
    decodeRequest ⟨0b00#2, cfg, b⟩ = .spiInit ∧ decodeRequest ⟨0b01#2, packCfg c, b⟩ = .spiBegin c ∧
      decodeRequest ⟨0b10#2, cfg, b⟩ = .spiXfer b ∧ decodeRequest ⟨0b11#2, cfg, b⟩ = .spiEnd) ∧
  spiOpCode .spiInit = 0b00#2 ∧ spiOpCode .spiBegin = 0b01#2 ∧ spiOpCode .spiXfer = 0b10#2 ∧
    spiOpCode .spiEnd = 0b11#2 ∧
  ∀ (s : State) (r : Request), phaseRequest s = some r → (requestPort s).op = spiOpCode (requestOp r)

/-- The packing of `cfg` on the request port, and its value for `CFG_DAC` (R57). -/
def Obligations.CfgPacking : Prop :=
  (∀ c : BusCfg,
    (packCfg c).extractLsb' 3 32 = c.clockHz ∧ (packCfg c).getLsbD 2 = c.bitOrder ∧
      (packCfg c).extractLsb' 0 2 = c.mode) ∧
  packCfg cfgDac = 0x009896804#35

/-- The canonical encoding of WRITE as shifts and ORs (30_encoding.md §4). -/
def Obligations.WriteCanonicalEncoding : Prop :=
  ∀ (ch buf g1x act : Bool) (value : BitVec 16),
    encodeWrite ch buf g1x act value =
      (1#21 <<< 20) ||| ((BitVec.ofBool ch).setWidth 21 <<< 19) ||| ((BitVec.ofBool buf).setWidth 21 <<< 18) |||
        ((BitVec.ofBool g1x).setWidth 21 <<< 17) ||| ((BitVec.ofBool act).setWidth 21 <<< 16) |||
        value.setWidth 21

/-- `WRITE value` is `WRITE 0, 0, 1, 1, value`, also where it is rejected, and its word is `21'h130000 | value` (R59). -/
def Obligations.WriteValueForm : Prop :=
  (∀ value : List Char, assembleWrite [value] = assembleWrite [['0'], ['0'], ['1'], ['1'], value]) ∧
  (∀ v : BitVec 16, encodeWrite false false true true v = 0x130000#21 ||| v.setWidth 21) ∧
  (∀ (value : List Char) (v : BitVec 16), readValue value = .ok v →
    assembleWrite [value] = .ok (.writeCmd false false true true v))

/-- `WRITE ch, value` is `WRITE ch, 0, 1, 1, value`, its word is `21'h130000 | (ch << 19) | value`, and the forms of WRITE
are told apart by operand count alone: 1, 2 or 5 (R60). -/
def Obligations.WriteChannelValueForm : Prop :=
  (∀ ch value : List Char, assembleWrite [ch, value] = assembleWrite [ch, ['0'], ['1'], ['1'], value]) ∧
  (∀ (ch : Bool) (v : BitVec 16),
    encodeWrite ch false true true v =
      0x130000#21 ||| ((BitVec.ofBool ch).setWidth 21 <<< 19) ||| v.setWidth 21) ∧
  (∀ (ch value : List Char) (c : Bool) (v : BitVec 16), readFlag ch = .ok c → readValue value = .ok v →
    assembleWrite [ch, value] = .ok (.writeCmd c false true true v)) ∧
  (∀ ops : List (List Char), ops.length ≠ 1 → ops.length ≠ 2 → ops.length ≠ 5 →
    assembleWrite ops = .error .wrongOperandCount)

/-- What an assembler accepts as an operand (30_encoding.md §4): a flag is written 0, 1, false or true; a value is a
decimal number or a `0x`-hexadecimal one from 0 to 65535, encoded as written. The texts that are numbers are the non-empty
lists of decimal digits and `0x` followed by hexadecimal digits, with letters of either case (log 26), and no others. -/
def Obligations.AssemblerOperands : Prop :=
  (∀ (t : List Char) (b : Bool), readFlag t = .ok b ↔
    (b = false ∧ (t = ['0'] ∨ t = ['f', 'a', 'l', 's', 'e'])) ∨
      (b = true ∧ (t = ['1'] ∨ t = ['t', 'r', 'u', 'e']))) ∧
  (∀ (t : List Char) (v : BitVec 16), readValue t = .ok v ↔ readNumber t = some v.toNat) ∧
  (∀ (t : List Char) (n : Nat), readNumber t = some n → 65535 < n → readValue t = .error .badValue) ∧
  (∀ t : List Char, readNumber t = none → readValue t = .error .badValue) ∧
  (∀ ds : List (Fin 10), ds ≠ [] →
    readNumber (ds.map decimalChar) = some (Nat.ofDigits 10 (ds.map Fin.val).reverse)) ∧
  (∀ ds : List (Fin 16 × Bool), ds ≠ [] →
    readNumber ('0' :: 'x' :: ds.map hexChar) = some (Nat.ofDigits 16 (ds.map (fun d => d.1.val)).reverse)) ∧
  (∀ t : List Char, (∀ ds : List (Fin 10), ds ≠ [] → t ≠ ds.map decimalChar) →
    (∀ ds : List (Fin 16 × Bool), ds ≠ [] → t ≠ '0' :: 'x' :: ds.map hexChar) → readNumber t = none)

-- Frame packing (41_write.md §2)

/-- `pack` is the source's formula in shifts, ANDs and ORs (R73). -/
def Obligations.PackFormula : Prop :=
  ∀ (ch buf g1x act : Bool) (value : BitVec 16),
    configBits ch buf g1x act =
      ((BitVec.ofBool ch).setWidth 4 <<< 3) ||| ((BitVec.ofBool buf).setWidth 4 <<< 2) |||
        ((BitVec.ofBool g1x).setWidth 4 <<< 1) ||| (BitVec.ofBool act).setWidth 4 ∧
    byte0 (pack ch buf g1x act value) =
      ((configBits ch buf g1x act).setWidth 8 <<< 4) ||| ((value >>> 8).setWidth 8 &&& 0x0F#8) ∧
    byte1 (pack ch buf g1x act value) = (value &&& 0xFF#16).setWidth 8 ∧
    pack ch buf g1x act value =
      byte0 (pack ch buf g1x act value) ++ byte1 (pack ch buf g1x act value)

/-- Truncation modulo 4096 (41_write.md §2): the frame is the same, and nothing but the accepted word in the trace
differs, accepted after initialisation or before it. That `CmdAccept` carries the whole word, the discarded bits
included, is the model's reading (log 17): 41_write.md §2 says that no event records a value of 4096 or more. -/
def Obligations.ValueTruncated : Prop :=
  ∀ (ch buf g1x act : Bool) (value : BitVec 16),
    pack ch buf g1x act value = pack ch buf g1x act (BitVec.ofNat 16 (value.toNat % 4096)) ∧
    ∀ s : State, ∃ t : State, exec (.writeCmd ch buf g1x act value) s = .next t ∧
      ∃ trace, exec (.writeCmd ch buf g1x act (BitVec.ofNat 16 (value.toNat % 4096))) s =
          .next { t with trace := trace } ∧
        (s.phase ≠ .idle → trace = t.trace) ∧
        (s.phase = .idle → ∃ rest : List Entry,
          rest = (if s.initialized then [] else [⟨.sequencer, .fault .writeBeforeBegin⟩]) ∧
          t.trace = s.trace ++ ⟨.sequencer, .cmdAccept (encodeWrite ch buf g1x act value)⟩ :: rest ∧
          trace = s.trace ++ ⟨.sequencer, .cmdAccept
            (encodeWrite ch buf g1x act (BitVec.ofNat 16 (value.toNat % 4096)))⟩ :: rest) ∧
        (s.phase ≠ .idle ∨ s.initialized = true → t.fault = s.fault)

/-- The arithmetic laws of `pack` (41_write.md §2): its value as a number, and that it is a bijection from flags and
12-bit values onto all frames. -/
def Obligations.PackArithmetic : Prop :=
  (∀ (ch buf g1x act : Bool) (value : BitVec 16),
    (pack ch buf g1x act value).toNat =
      ch.toNat * 32768 + buf.toNat * 16384 + g1x.toNat * 8192 + act.toNat * 4096 + value.toNat % 4096) ∧
  (∀ f : FrameWord, ∃ ch buf g1x act, ∃ value : BitVec 16, value.toNat < 4096 ∧ pack ch buf g1x act value = f) ∧
  (∀ (ch buf g1x act ch' buf' g1x' act' : Bool) (value value' : BitVec 16),
    value.toNat < 4096 → value'.toNat < 4096 →
      pack ch buf g1x act value = pack ch' buf' g1x' act' value' →
        ch = ch' ∧ buf = buf' ∧ g1x = g1x' ∧ act = act' ∧ value = value')

-- Ports and status (10_state.md)

/-- `status` bit by bit (R27). -/
def Obligations.StatusPort : Prop :=
  ∀ s : State,
    (status s).getLsbD 0 = busy s ∧ (status s).getLsbD 1 = s.initialized ∧
      (status s).extractLsb' 2 2 = faultCode s.fault

/-- `cmd_ready` and `busy`, and that a presented command is what the sequencer executes in IDLE and nowhere else
(10_state.md §9; 20_memory.md §4). -/
def Obligations.CommandTakenInIdle : Prop :=
  ∀ s : State,
    (cmdReady s = true ↔ s.phase = .idle) ∧ (busy s = true ↔ s.phase ≠ .idle) ∧
    (s.phase = .idle → s.cmdValid = true → fetch .sequencer s = some (decode (.command s.cmd))) ∧
    (s.phase = .idle → s.cmdValid = false → fetch .sequencer s = none) ∧
    (∀ (v : Bool) (c : CmdWord), s.phase ≠ .idle →
      fetch .sequencer { s with cmdValid := v, cmd := c } = fetch .sequencer s)

/-- The request port shows the outstanding request, and stays as it is until that request is acknowledged or the block
is reset (42_spi_bus.md §2). That it is the same still in the state the acknowledgement leaves is the model's choice
(log 36). -/
def Obligations.RequestPortStable : Prop :=
  ∀ s : State, Inv s → s.req = .wait →
    (∃ r, outstanding s = some r ∧ decode (.request (requestPort s)) =
      (match r with
       | .spiInit => .spiInit | .spiBegin c => .spiBegin c | .spiXfer b => .spiXfer b | .spiEnd => .spiEnd)) ∧
    ∀ t, step s = .next t → (turnOf s).rst = false → (t.req = .wait ∨ t.req = .ack) ∧
      requestPort t = requestPort s

-- BEGIN (40_begin.md)

/-- Accept (R63): the micro-step of BEGIN in IDLE, and the sequencer's step when the host presents such a word. -/
def Obligations.BeginAccepted : Prop :=
  (∀ (s : State) (ignored : BitVec 20), s.phase = .idle →
    exec (.beginCmd ignored) s = .next { s with
      phase := .bPinMode
      trace := s.trace ++ [⟨.sequencer, .cmdAccept (encodeBegin ignored)⟩] }) ∧
  ∀ s : State, s.phase = .idle → s.cmdValid = true → s.cmd.getLsbD 20 = false → turnOf s = sequencerTurn →
    step s = .next { takeTurn s with
      phase := .bPinMode
      trace := s.trace ++ [⟨.sequencer, .cmdAccept s.cmd⟩] }

/-- Configure CS as output (R64). -/
def Obligations.BeginConfiguresOutput : Prop :=
  ∀ (s : State) (ignored : BitVec 20), s.phase = .bPinMode →
    exec (.beginCmd ignored) s = .next { s with
      csOe := true
      phase := .bSetHigh
      wire := s.wire ++ [.cs (some s.csOut)]
      trace := s.trace ++ [⟨.sequencer, .pinOutput s.csLine⟩] }

/-- Drive CS inactive (R65). -/
def Obligations.BeginDrivesHigh : Prop :=
  ∀ (s : State) (ignored : BitVec 20), s.phase = .bSetHigh →
    exec (.beginCmd ignored) s = .next { s with
      csOut := true
      phase := .bSpiInit
      wire := s.wire ++ [.cs (if s.csOe then some true else none)]
      trace := s.trace ++ [⟨.sequencer, .pinWrite s.csLine true⟩] }

/-- The SPI INIT phase of BEGIN: issue, hold, and on the acknowledgement fix the configuration and complete (R66, R67). -/
def Obligations.BeginInitialisesBus : Prop :=
  ∀ (s : State) (ignored : BitVec 20), s.phase = .bSpiInit →
    (s.req = .none → exec (.beginCmd ignored) s = .next { s with
      req := .wait
      trace := s.trace ++ [⟨.sequencer, .spiReq .spiInit⟩] }) ∧
    (s.req = .wait → exec (.beginCmd ignored) s = .next s) ∧
    (s.req = .ack → exec (.beginCmd ignored) s = .next { s with
      req := .none
      cfg := { clockHz := 20000000#32, bitOrder := true, mode := 0#2 }
      initialized := true
      phase := .idle
      trace := s.trace ++ [⟨.sequencer, .cmdDone⟩] })

/-- One BEGIN with nothing in between emits exactly its six events, whatever `initialized` was, and leaves CS driven high
and the block initialised (40_begin.md §1, §3). -/
def Obligations.BeginRuns : Prop :=
  ∀ (s : State) (ignored : BitVec 20) (rest : List Turn),
    s.phase = .idle → s.req = .none → s.cmdValid = true → s.cmd = encodeBegin ignored →
    s.schedule = beginTurns ++ rest →
    runFor 6 s = .next { s with
      cfg := cfgDac
      csOe := true
      csOut := true
      initialized := true
      schedule := rest
      tick := s.tick + 6
      wire := s.wire ++ [.cs (some s.csOut), .cs (some true)]
      trace := s.trace ++
        [⟨.sequencer, .cmdAccept (encodeBegin ignored)⟩, ⟨.sequencer, .pinOutput s.csLine⟩,
         ⟨.sequencer, .pinWrite s.csLine true⟩, ⟨.sequencer, .spiReq .spiInit⟩,
         ⟨.spiCollaborator, .spiAck .thisBlock .spiInit⟩, ⟨.sequencer, .cmdDone⟩] }

/-- Repeated BEGIN (40_begin.md §3). With nothing in between, a BEGIN presented to an idle block, whatever `initialized`,
emits the same events and ends in the same state. Whatever other agents do in between, short of a reset, a BEGIN that
completes leaves that end state, and once initialised the CS line is high before and after every step of it. -/
def Obligations.RepeatedBeginKeepsCsHigh : Prop :=
  (∀ (s : State) (ignored : BitVec 20) (rest : List Turn),
    Inv s → s.phase = .idle → s.cmdValid = true → s.cmd = encodeBegin ignored →
    s.schedule = beginTurns ++ rest →
    (∃ t, runFor 6 s = .next t ∧ t.phase = .idle ∧ t.csOe = true ∧ t.csOut = true ∧ t.cfg = cfgDac ∧
      t.initialized = true ∧
      (t.trace.drop s.trace.length).map Entry.event = beginEvents s.csLine (encodeBegin ignored)) ∧
    (s.initialized = true → ∀ k, k ≤ 6 → ∃ t, runFor k s = .next t ∧ lineLevel t = true)) ∧
  (∀ s t : State, Inv s → s.phase = .bSpiInit → step s = .next t → (turnOf s).rst = false → t.phase = .idle →
    t.csOe = true ∧ t.csOut = true ∧ t.cfg = cfgDac ∧ t.initialized = true) ∧
  ∀ s t : State, Inv s → s.initialized = true →
    s.phase = .idle ∨ s.phase = .bPinMode ∨ s.phase = .bSetHigh ∨ s.phase = .bSpiInit →
    step s = .next t → (turnOf s).rst = false → lineLevel s = true ∧ lineLevel t = true ∧ t.initialized = true

/-- BEGIN writes `cfg`, `cs_oe`, `cs_out`, `initialized`, `phase` and `req`, adds to the trace and the wire log, and
writes nothing else (40_begin.md §1, §2). -/
def Obligations.BeginFrame : Prop :=
  ∀ (s t : State) (ignored : BitVec 20), exec (.beginCmd ignored) s = .next t →
    t = { s with
      cfg := t.cfg, csOe := t.csOe, csOut := t.csOut, initialized := t.initialized, phase := t.phase, req := t.req,
      wire := t.wire, trace := t.trace } ∧
    s.wire <+: t.wire ∧ s.trace <+: t.trace ∧
    (s.phase ≠ .bPinMode → t.csOe = s.csOe) ∧ (s.phase ≠ .bSetHigh → t.csOut = s.csOut) ∧
    (s.phase ≠ .bSpiInit → t.req = s.req) ∧
    (¬ (s.phase = .bSpiInit ∧ s.req = .ack) → t.cfg = s.cfg ∧ t.initialized = s.initialized)

-- WRITE (41_write.md)

/-- Accept after initialisation (41_write.md §3, first micro-step): the frame is latched, no fault. The micro-step of
WRITE in IDLE, and the sequencer's step when the host presents such a word. -/
def Obligations.WriteAccepted : Prop :=
  (∀ (s : State) (ch buf g1x act : Bool) (value : BitVec 16), s.phase = .idle → s.initialized = true →
    exec (.writeCmd ch buf g1x act value) s = .next { s with
      frame := pack ch buf g1x act value
      phase := .wCsLow
      trace := s.trace ++ [⟨.sequencer, .cmdAccept (encodeWrite ch buf g1x act value)⟩] }) ∧
  ∀ s : State, s.phase = .idle → s.cmdValid = true → s.cmd.getLsbD 20 = true → s.initialized = true →
    turnOf s = sequencerTurn →
    step s = .next { takeTurn s with
      frame := frameOf s.cmd
      phase := .wCsLow
      trace := s.trace ++ [⟨.sequencer, .cmdAccept s.cmd⟩] }

/-- Accept before initialisation: the one fault, with no pin or SPI event and no other state written (60_exceptions.md
R110, for the only code the block raises). -/
def Obligations.WriteBeforeBeginFaults : Prop :=
  (∀ (s : State) (code : FaultCode), raiseFault code s = { s with
    fault := code, phase := .fault, trace := s.trace ++ [⟨.sequencer, .fault code⟩] }) ∧
  ∀ (s : State) (ch buf g1x act : Bool) (value : BitVec 16), s.phase = .idle → s.initialized = false →
    exec (.writeCmd ch buf g1x act value) s = .next { s with
      fault := .writeBeforeBegin
      phase := .fault
      trace := s.trace ++ [⟨.sequencer, .cmdAccept (encodeWrite ch buf g1x act value)⟩,
        ⟨.sequencer, .fault .writeBeforeBegin⟩] }

/-- Step 1: assert CS (R78). -/
def Obligations.WriteAssertsCs : Prop :=
  ∀ (s : State) (ch buf g1x act : Bool) (value : BitVec 16), s.phase = .wCsLow →
    exec (.writeCmd ch buf g1x act value) s = .next { s with
      csOut := false
      phase := .wOpen
      wire := s.wire ++ [.cs (if s.csOe then some false else none)]
      trace := s.trace ++ [⟨.sequencer, .pinWrite s.csLine false⟩] }

/-- The SPI phases of WRITE, steps 2 to 4 (R79 to R82), each the three-way step of R24: the request it issues, the hold,
and the phase that follows the acknowledgement. The operands are not read again. -/
def Obligations.WriteSpiPhases : Prop :=
  ∀ (s : State) (ch buf g1x act : Bool) (value : BitVec 16) (r : Request) (next : Phase),
    (s.phase = .wOpen ∧ r = .spiBegin s.cfg ∧ next = .wXfer0) ∨
    (s.phase = .wXfer0 ∧ r = .spiXfer (s.frame.extractLsb' 8 8) ∧ next = .wXfer1) ∨
    (s.phase = .wXfer1 ∧ r = .spiXfer (s.frame.extractLsb' 0 8) ∧ next = .wClose) ∨
    (s.phase = .wClose ∧ r = .spiEnd ∧ next = .wCsHigh) →
    (s.req = .none → exec (.writeCmd ch buf g1x act value) s = .next { s with
      req := .wait
      trace := s.trace ++ [⟨.sequencer, .spiReq r⟩] }) ∧
    (s.req = .wait → exec (.writeCmd ch buf g1x act value) s = .next s) ∧
    (s.req = .ack → exec (.writeCmd ch buf g1x act value) s = .next { s with req := .none, phase := next })

/-- Step 5: deassert CS and complete (R83). -/
def Obligations.WriteDeassertsCs : Prop :=
  ∀ (s : State) (ch buf g1x act : Bool) (value : BitVec 16), s.phase = .wCsHigh →
    exec (.writeCmd ch buf g1x act value) s = .next { s with
      csOut := true
      phase := .idle
      wire := s.wire ++ [.cs (if s.csOe then some true else none)]
      trace := s.trace ++ [⟨.sequencer, .pinWrite s.csLine true⟩, ⟨.sequencer, .cmdDone⟩] }

/-- One WRITE with nothing in between: exactly its twelve events in order, both bytes inside one bus transaction and one
CS-low interval, the sixteen bits of the frame on the wire most-significant first (41_write.md §4; 42_spi_bus.md §3).
The received byte left on `spi_rdata` is a free value (log 11). -/
def Obligations.WriteRuns : Prop :=
  ∀ (s : State) (ch buf g1x act : Bool) (value : BitVec 16) (rest : List Turn),
    Inv s → s.initialized = true → s.phase = .idle → s.bus = none → s.cmdValid = true →
    s.cmd = encodeWrite ch buf g1x act value → s.schedule = writeTurns ++ rest →
    ∃ rdata : Byte, runFor 15 s = .next { s with
      frame := pack ch buf g1x act value
      schedule := rest
      tick := s.tick + 15
      spiRdata := rdata
      wire := s.wire ++ [.cs (some false), .config cfgDac] ++
        (List.range 16).map (fun k => .bit .thisBlock ((pack ch buf g1x act value).getLsbD (15 - k))) ++
        [.cs (some true)]
      trace := s.trace ++
        [⟨.sequencer, .cmdAccept (encodeWrite ch buf g1x act value)⟩, ⟨.sequencer, .pinWrite s.csLine false⟩,
         ⟨.sequencer, .spiReq (.spiBegin cfgDac)⟩, ⟨.spiCollaborator, .spiAck .thisBlock .spiBegin⟩,
         ⟨.sequencer, .spiReq (.spiXfer (byte0 (pack ch buf g1x act value)))⟩,
         ⟨.spiCollaborator, .spiAck .thisBlock .spiXfer⟩,
         ⟨.sequencer, .spiReq (.spiXfer (byte1 (pack ch buf g1x act value)))⟩,
         ⟨.spiCollaborator, .spiAck .thisBlock .spiXfer⟩,
         ⟨.sequencer, .spiReq .spiEnd⟩, ⟨.spiCollaborator, .spiAck .thisBlock .spiEnd⟩,
         ⟨.sequencer, .pinWrite s.csLine true⟩, ⟨.sequencer, .cmdDone⟩] }

/-- The receiver takes the frame of such a WRITE as a whole and sets the output it addresses by it; the other output
keeps its setting (42_spi_bus.md §3, §4). The clock idles low and CS is high before the WRITE, which 70_reset_and_hazards.md
§3 makes premises. The receiver is the model's view of the wire log; that it takes this frame whatever it saw before is
the model's choice (log 21, log 22, log 34, log 35). -/
def Obligations.ReceiverTakesFrame : Prop :=
  ∀ (s t : State) (ch buf g1x act : Bool) (value : BitVec 16) (rest : List Turn),
    Inv s → s.initialized = true → s.phase = .idle → s.bus = none → s.cmdValid = true →
    s.cmd = encodeWrite ch buf g1x act value → s.schedule = writeTurns ++ rest →
    (receiver s).cs = some true → (receiver s).sckIdleHigh = false →
    runFor 15 s = .next t →
    let setting : Setting :=
      { buffered := buf, gain := if g1x then .x1 else .x2, stage := if act then .active else .shutdown,
        value := value.setWidth 12 }
    (receiver t).cs = some true ∧ (receiver t).bits.length = 16 ∧ (receiver t).clean = true ∧
    (if Config.receiverIsDual = true ∧ ch = true
     then (receiver t).outB = some setting ∧ (receiver t).outA = (receiver s).outA
     else (receiver t).outA = some setting ∧ (receiver t).outB = (receiver s).outB)

/-- WRITE writes `cs_out`, `fault`, `frame`, `phase` and `req`, adds to the trace and the wire log, and writes nothing
else; the fault only before initialisation, the frame only at acceptance (41_write.md §1, §3). -/
def Obligations.WriteFrame : Prop :=
  ∀ (s t : State) (ch buf g1x act : Bool) (value : BitVec 16), exec (.writeCmd ch buf g1x act value) s = .next t →
    t = { s with
      csOut := t.csOut, fault := t.fault, frame := t.frame, phase := t.phase, req := t.req, wire := t.wire,
      trace := t.trace } ∧
    s.wire <+: t.wire ∧ s.trace <+: t.trace ∧
    (¬ (s.phase = .idle ∧ s.initialized = false) → t.fault = s.fault) ∧
    (¬ (s.phase = .idle ∧ s.initialized = true) → t.frame = s.frame) ∧
    (s.phase ≠ .wCsLow → s.phase ≠ .wCsHigh → t.csOut = s.csOut) ∧
    (isSpiPhase s.phase = false → t.req = s.req)

/-- A command that is not the running one is not accepted while the block is busy, in FAULT included: nothing changes
(10_state.md §9; 60_exceptions.md §1). -/
def Obligations.CommandWaitsWhileBusy : Prop :=
  (∀ (s : State) (ignored : BitVec 20), isWritePhase s.phase = true ∨ s.phase = .fault →
    exec (.beginCmd ignored) s = .next s) ∧
  (∀ (s : State) (ch buf g1x act : Bool) (value : BitVec 16),
    s.phase = .bPinMode ∨ s.phase = .bSetHigh ∨ s.phase = .bSpiInit ∨ s.phase = .fault →
    exec (.writeCmd ch buf g1x act value) s = .next s)

-- The SPI collaborator (42_spi_bus.md)

/-- INIT is acknowledged whatever the bus, and has no other effect (R97, its precondition and effect). -/
def Obligations.SpiInitAcknowledged : Prop :=
  ∀ s : State, outstanding s = some .spiInit →
    exec .spiInit s = .next { s with
      req := .ack
      trace := s.trace ++ [⟨.spiCollaborator, .spiAck .thisBlock .spiInit⟩] }

/-- BEGIN(cfg): granted when nobody owns the bus, and the configuration is applied; otherwise the block waits (R98). -/
def Obligations.SpiBeginGranted : Prop :=
  ∀ (s : State) (c : BusCfg), outstanding s = some (.spiBegin c) →
    (s.bus = none → exec (.spiBegin c) s = .next { s with
      req := .ack
      bus := some ⟨.thisBlock, c⟩
      wire := s.wire ++ [.config c]
      trace := s.trace ++ [⟨.spiCollaborator, .spiAck .thisBlock .spiBegin⟩] }) ∧
    (s.bus ≠ none → exec (.spiBegin c) s = .next s)

/-- XFER(b): eight bits, in the order of the applied configuration; `spi_rdata` takes a byte the spec does not fix
(42_spi_bus.md §2, §3; the returned byte is a free value, log 11). Under `CFG_DAC` the clock's i-th leading edge samples
`b[7-i]`, and the open transaction keeps asking for 20,000,000 Hz, most-significant bit first and mode 0. -/
def Obligations.SpiXferShiftsByte : Prop :=
  (∀ (s : State) (b : Byte) (c : BusCfg), outstanding s = some (.spiXfer b) → s.bus = some ⟨.thisBlock, c⟩ →
    ∃ rdata : Byte, exec (.spiXfer b) s = .next { s with
      req := .ack
      spiRdata := rdata
      wire := s.wire ++ (List.range 8).map (fun i =>
        .bit .thisBlock (b.getLsbD (if c.bitOrder then 7 - i else i)))
      trace := s.trace ++ [⟨.spiCollaborator, .spiAck .thisBlock .spiXfer⟩] }) ∧
  ∀ (s : State) (b : Byte), outstanding s = some (.spiXfer b) → s.bus = some ⟨.thisBlock, cfgDac⟩ →
    ∃ t, exec (.spiXfer b) s = .next t ∧
      (t.wire.drop s.wire.length).length = 8 ∧
      (∀ i, i < 8 → (t.wire.drop s.wire.length)[i]? = some (.bit .thisBlock (b.getLsbD (7 - i)))) ∧
      t.bus = some ⟨.thisBlock, { clockHz := 20000000#32, bitOrder := true, mode := 0#2 }⟩

/-- END: the bus is released, and from then on a foreign user may be granted it (R100). -/
def Obligations.SpiEndReleases : Prop :=
  ∀ s : State, outstanding s = some .spiEnd → busOwner s = some .thisBlock →
    ∃ t, exec .spiEnd s = .next t ∧
      t = { s with
        req := .ack
        bus := none
        trace := s.trace ++ [⟨.spiCollaborator, .spiAck .thisBlock .spiEnd⟩] } ∧
      ∀ (user : Nat) (c : BusCfg), (user, .spiBegin c) ∈ t.foreignReqs → grantable (.foreign user) (.spiBegin c) t = true

/-- The acknowledgement step is enabled only for the outstanding request and when its precondition holds; otherwise
nothing happens (42_spi_bus.md §2). -/
def Obligations.SpiWaitsForPrecondition : Prop :=
  ∀ s : State,
    (outstanding s ≠ some .spiInit → exec .spiInit s = .next s) ∧
    (∀ c, outstanding s ≠ some (.spiBegin c) ∨ s.bus ≠ none → exec (.spiBegin c) s = .next s) ∧
    (∀ b, outstanding s ≠ some (.spiXfer b) ∨ busOwner s ≠ some .thisBlock → exec (.spiXfer b) s = .next s) ∧
    (outstanding s ≠ some .spiEnd ∨ busOwner s ≠ some .thisBlock → exec .spiEnd s = .next s)

/-- The collaborator's operations write no register of the block but `req`; INIT, BEGIN and END leave `spi_rdata`, INIT
and END the wires, INIT and XFER the bus transaction (42_spi_bus.md §2). -/
def Obligations.SpiFrame : Prop :=
  ∀ (s t : State) (i : Instr),
    (i = .spiInit ∨ (∃ c, i = .spiBegin c) ∨ (∃ b, i = .spiXfer b) ∨ i = .spiEnd) → exec i s = .next t →
    t = { s with req := t.req, bus := t.bus, wire := t.wire, spiRdata := t.spiRdata, trace := t.trace } ∧
    s.wire <+: t.wire ∧ s.trace <+: t.trace ∧
    ((∀ b, i ≠ .spiXfer b) → t.spiRdata = s.spiRdata) ∧
    (i = .spiInit ∨ i = .spiEnd → t.wire = s.wire) ∧
    ((i = .spiInit ∨ ∃ b, i = .spiXfer b) → t.bus = s.bus)

/-- Exclusion (42_spi_bus.md R101): while this block owns the bus, no step acknowledges a foreign BEGIN or XFER, no
foreign bit reaches the wire, and only this block's END or a reset ends the ownership. -/
def Obligations.ForeignExcluded : Prop :=
  ∀ s t : State, busOwner s = some .thisBlock → step s = .next t →
    ∃ (new : List Entry) (items : List WireItem),
      t.trace = s.trace ++ new ∧ t.wire = s.wire ++ items ∧
      (∀ e ∈ new, ∀ user, e.event ≠ .spiAck (.foreign user) .spiXfer ∧ e.event ≠ .spiAck (.foreign user) .spiBegin) ∧
      (∀ user b, .bit (.foreign user) b ∉ items) ∧
      (busOwner t = some .thisBlock ∨ ⟨.spiCollaborator, .spiAck .thisBlock .spiEnd⟩ ∈ new ∨
        ⟨.reset, .reset⟩ ∈ new)

/-- What foreign bus users can do, in every phase of this block, so also while its CS line is low and it does not own the
bus (20_memory.md §4; 70_reset_and_hazards.md §3): issue a request; have INIT acknowledged; take a free bus; have a byte
clocked while this block does not own the bus, in the order of the open transaction if there is one; release a bus they
own. Another instance may be reset (60_exceptions.md §4; 70_reset_and_hazards.md §1): its request is abandoned and a bus
it owns is released or stays its own for ever (log 10). The model's deductions: that this reset is a move any foreign user
may take, and leaves a bus it does not release to an owner of its own kind (log 32); the one outstanding request a user
and the transfer outside a transaction (log 14). -/
def Obligations.ForeignUsersAct : Prop :=
  (∀ (s : State) (user : Nat) (r : Request), turnOf s = ⟨false, .foreignRequest user r⟩ →
    user ∉ s.foreignReqs.map Prod.fst →
    step s = .next { takeTurn s with
      foreignReqs := s.foreignReqs ++ [(user, r)]
      trace := s.trace ++ [⟨.foreignUser user, .spiReq r⟩] }) ∧
  (∀ (s s' : State) (user : Nat) (r : Request), ForeignDistinct s →
    turnOf s = ⟨false, .acknowledge (.foreign user)⟩ → (user, r) ∈ s.foreignReqs →
    s' = { takeTurn s with
      foreignReqs := s.foreignReqs.filter (fun p => p.1 != user)
      trace := s.trace ++ [⟨.spiCollaborator, .spiAck (.foreign user) (requestOp r)⟩] } →
    (r = .spiInit → step s = .next s') ∧
    (∀ c, r = .spiBegin c → s.bus = none →
      step s = .next { s' with bus := some ⟨.foreign user, c⟩, wire := s.wire ++ [.config c] }) ∧
    (∀ b, r = .spiXfer b → busOwner s ≠ some .thisBlock →
      ∃ msbFirst : Bool, (∀ t, s.bus = some t → msbFirst = t.cfg.bitOrder) ∧
        step s = .next { s' with
          wire := s.wire ++ (List.range 8).map (fun i =>
            .bit (.foreign user) (b.getLsbD (if msbFirst then 7 - i else i))) }) ∧
    (r = .spiEnd → busOwner s = some (.foreign user) → step s = .next { s' with bus := none })) ∧
  (∀ (s : State) (user : Nat), turnOf s = ⟨false, .foreignReset user⟩ →
    ∃ t, step s = .next t ∧
      t = { takeTurn s with
        foreignReqs := s.foreignReqs.filter (fun p => p.1 != user)
        bus := t.bus
        trace := s.trace ++ [⟨.foreignReset user, .reset⟩] } ∧
      (busOwner s ≠ some (.foreign user) → t.bus = s.bus) ∧
      (busOwner s = some (.foreign user) →
        if Config.foreignReleaseOnReset user = true then t.bus = none else busOwner t = some (.stranded user))) ∧
  ∀ (s t : State) (user : Nat), Inv s → busOwner s = some (.stranded user) → step s = .next t →
    busOwner t = some (.stranded user)

/-- Every bit of this block is clocked while its CS line is low (41_write.md §4, CS framing). -/
def Obligations.OwnBitsUnderCsLow : Prop :=
  ∀ s t : State, Inv s → step s = .next t →
    ∃ items : List WireItem, t.wire = s.wire ++ items ∧
      ((∃ b, .bit .thisBlock b ∈ items) →
        lineLevel s = false ∧ lineLevel t = false ∧ busOwner s = some .thisBlock ∧ busOwner t = some .thisBlock)

/-- The received byte affects nothing (R102): no port of the block shows it, and no state element or event after a step
depends on it. -/
def Obligations.ReceivedByteIgnored : Prop :=
  (∀ (s : State) (b : Byte),
    requestPort { s with spiRdata := b } = requestPort s ∧ status { s with spiRdata := b } = status s ∧
      cmdReady { s with spiRdata := b } = cmdReady s ∧ busy { s with spiRdata := b } = busy s ∧
      spiReq { s with spiRdata := b } = spiReq s ∧ lineLevel { s with spiRdata := b } = lineLevel s) ∧
  ∀ (s t : State) (b : Byte), step s = .next t →
    ∃ b' : Byte, step { s with spiRdata := b } = .next { t with spiRdata := b' }

-- Faults, reset and hazards (60_exceptions.md, 70_reset_and_hazards.md)

/-- FAULT is sticky (R111): no sequencer step is enabled, the ports show it, the state is not final, and every step but a
reset step keeps the block as it is; a reset step leaves it. -/
def Obligations.FaultHeldUntilReset : Prop :=
  ∀ s t : State, s.phase = .fault → step s = .next t →
    sequencerEnabled s = false ∧ cmdReady s = false ∧ busy s = true ∧
    (status s).extractLsb' 2 2 = faultCode s.fault ∧ ¬ EndedWell s ∧
    ((turnOf s).rst = true → t.phase = .idle ∧ t.fault = .none) ∧
    ((turnOf s).rst = false → t.phase = .fault ∧ t.fault = s.fault ∧ t.cfg = s.cfg ∧ t.csOe = s.csOe ∧
      t.csOut = s.csOut ∧ t.initialized = s.initialized ∧ t.frame = s.frame ∧ t.csLine = s.csLine)

/-- A silent collaborator holds the block (R113): for as many steps as neither an acknowledgement of this block nor a
reset comes, the phase and the request stay, no fault is raised, and CS stays low in the phases named. A reset ends it. -/
def Obligations.SilentCollaboratorHolds : Prop :=
  (∀ (k : Nat) (s t : State), Inv s → s.req = .wait →
    (∀ j u, j < k → runFor j s = .next u → (turnOf u).rst = false ∧
      ¬ ((turnOf u).move = .acknowledge .thisBlock ∧ acknowledgeEnabled u = true)) →
    runFor k s = .next t →
    t.phase = s.phase ∧ t.req = .wait ∧ t.fault = s.fault ∧
    (s.phase = .wOpen ∨ s.phase = .wXfer0 ∨ s.phase = .wXfer1 ∨ s.phase = .wClose → lineLevel t = false)) ∧
  ∀ s t : State, s.req = .wait → step s = .next t → (turnOf s).rst = true → t.req = .none ∧ t.phase = .idle

/-- The reset step (R123), whatever the turn's move: the specified values, the one event, the abandoned request, the bus
by `BUS_RELEASE_ON_RESET`; and a bus left owned by this block while it does not hold it stays so for ever: nobody, this
block included, is granted it again. `cs_out`, `cfg` and `frame` are left out, since any value is allowed. -/
def Obligations.ResetStepRule : Prop :=
  (∀ s : State, (turnOf s).rst = true → ∃ t, step s = .next t ∧
    t = { s with
      phase := .idle, req := .none, initialized := false, fault := .none, csOe := false
      csOut := t.csOut, cfg := t.cfg, frame := t.frame
      bus := if holdsBus s = true ∧ Config.busReleaseOnReset = true then none else s.bus
      wire := s.wire ++ [.cs none]
      trace := s.trace ++ [⟨.reset, .reset⟩]
      schedule := s.schedule.tail
      tick := s.tick + 1 } ∧
    outstanding t = none ∧ acknowledgeEnabled t = false ∧ lineLevel t = Config.pinFloatLevel t.tick) ∧
  (∀ (k : Nat) (s t : State), ReqOnlyInSpiPhase s → busOwner s = some .thisBlock → holdsBus s = false →
    runFor k s = .next t →
    busOwner t = some .thisBlock ∧ holdsBus t = false ∧
      ∀ e ∈ t.trace.drop s.trace.length, ∀ who, e.event ≠ .spiAck who .spiBegin)

/-- Construction fixes `CS_LINE`, puts the block in its reset state and emits nothing (R71; of the reset values, those
70_reset_and_hazards.md §1 specifies). The machine after reset is such a block. -/
def Obligations.ConstructionIsReset : Prop :=
  (∀ line : LineId,
    let s := State.construct line
    s.csLine = line ∧ s.phase = .idle ∧ s.req = .none ∧ s.initialized = false ∧ s.fault = .none ∧ s.csOe = false ∧
      s.trace = [] ∧ status s = 0b0000#4 ∧ cmdReady s = true) ∧
  ∃ line, State.reset = State.construct line

/-- `CS_LINE` never changes, and every pin event names it and is the sequencer's (R14). -/
def Obligations.CsLineConstant : Prop :=
  (∀ line, (State.construct line).csLine = line) ∧
  ∀ s t : State, step s = .next t → t.csLine = s.csLine ∧
    ∃ new, t.trace = s.trace ++ new ∧ ∀ e ∈ new,
      (∀ l, e.event = .pinOutput l → l = s.csLine ∧ e.agent = .sequencer) ∧
      (∀ l v, e.event = .pinWrite l v → l = s.csLine ∧ e.agent = .sequencer)

/-- While the block is busy, what the host drives on the command port affects neither the block nor any other agent: a
move of the host changes the port alone, and any other step is the same whatever the port shows (R129). -/
def Obligations.BusyIgnoresCommandPort : Prop :=
  (∀ (s : State) (c : CmdWord), (turnOf s).rst = false → (turnOf s).move = .present c →
    step s = .next { takeTurn s with cmdValid := true, cmd := c }) ∧
  (∀ s : State, (turnOf s).rst = false → (turnOf s).move = .withdraw →
    step s = .next { takeTurn s with cmdValid := false }) ∧
  ∀ (s t : State) (v : Bool) (c : CmdWord), busy s = true → step s = .next t →
    (∀ cmd, (turnOf s).move ≠ .present cmd) → (turnOf s).move ≠ .withdraw →
    step { s with cmdValid := v, cmd := c } = .next { t with cmdValid := v, cmd := c }

/-- What a frame latch keeps between writes cannot be observed (10_state.md §7): outside a write sequence another
content changes no port, and nothing after a step but that content, which is gone when the next write sequence starts. -/
def Obligations.StaleFrameUnobservable : Prop :=
  (∀ (s : State) (f : FrameWord), isWritePhase s.phase = false →
    requestPort { s with frame := f } = requestPort s ∧ status { s with frame := f } = status s ∧
      lineLevel { s with frame := f } = lineLevel s) ∧
  ∀ (s t : State) (f : FrameWord), isWritePhase s.phase = false → step s = .next t →
    ∃ f' : FrameWord, step { s with frame := f } = .next { t with frame := f' } ∧
      (isWritePhase t.phase = true → f' = t.frame)

/-- A run that has ended well stays so, for however many steps the host presents no further command: no command runs,
and nothing is emitted for this block but resets (70_reset_and_hazards.md §2). -/
def Obligations.EndedWellStays : Prop :=
  ∀ (k : Nat) (s t : State), EndedWell s → HostSilent k s → runFor k s = .next t →
    EndedWell t ∧ ∃ new, t.trace = s.trace ++ new ∧ ∀ e ∈ new, isOwn e = false

-- The whole machine

/-- A step that is no reset step and whose mover fetches an instruction executes it, on the state with the turn taken;
and what each mover fetches is what its port, or its phase, shows. -/
def Obligations.StepRunsFetched : Prop :=
  (∀ (s : State) (i : Instr), (turnOf s).rst = false → fetch (turnOf s).move (takeTurn s) = some i →
    step s = exec i (takeTurn s) ∧ takeTurn s = { s with schedule := s.schedule.tail, tick := s.tick + 1 }) ∧
  (∀ s : State, s.phase = .idle → s.cmdValid = true → fetch .sequencer s = some (decode (.command s.cmd))) ∧
  (∀ s : State, spiReq s = true →
    fetch (.acknowledge .thisBlock) s = some (decode (.request (requestPort s)))) ∧
  (∀ s : State, s.phase = .bPinMode ∨ s.phase = .bSetHigh ∨ s.phase = .bSpiInit →
    ∃ ignored, fetch .sequencer s = some (.beginCmd ignored)) ∧
  (∀ s : State, isWritePhase s.phase = true →
    ∃ ch buf g1x act value, fetch .sequencer s = some (.writeCmd ch buf g1x act value) ∧
      pack ch buf g1x act value = s.frame)

/-- An instruction placed for the next step is the one the next step executes. Where and how an instruction is placed is
the model's choice (log 18): the spec gives the block no fetch. -/
def Obligations.PlacedInstructionRuns : Prop :=
  ∀ (i : Instr) (s : State), step (placeInstr i s) = exec i (takeTurn (placeInstr i s))

/-- Who writes which register, apart from a reset step, and with what (10_state.md §2, the column "written by"). -/
def Obligations.RegisterWriters : Prop :=
  ∀ s t : State, (turnOf s).rst = false → step s = .next t →
    (t.cfg = s.cfg ∨ (s.phase = .bSpiInit ∧ s.req = .ack ∧ t.cfg = cfgDac)) ∧
    (t.csOe = s.csOe ∨ (s.phase = .bPinMode ∧ t.csOe = true)) ∧
    (t.csOut = s.csOut ∨ (s.phase = .wCsLow ∧ t.csOut = false) ∨
      ((s.phase = .bSetHigh ∨ s.phase = .wCsHigh) ∧ t.csOut = true)) ∧
    (t.initialized = s.initialized ∨ (s.phase = .bSpiInit ∧ s.req = .ack ∧ t.initialized = true)) ∧
    (t.fault = s.fault ∨ (s.phase = .idle ∧ s.initialized = false ∧ t.fault = .writeBeforeBegin ∧ t.phase = .fault)) ∧
    (t.frame = s.frame ∨ (s.phase = .idle ∧ s.initialized = true ∧ t.phase = .wCsLow)) ∧
    ((turnOf s).move ≠ .sequencer →
      t.cfg = s.cfg ∧ t.csOe = s.csOe ∧ t.csOut = s.csOut ∧ t.initialized = s.initialized ∧ t.fault = s.fault ∧
        t.frame = s.frame ∧ t.phase = s.phase)

/-- No control transfer (R87): the phase changes only to the next in sequence, back to IDLE at the end of a command, into
FAULT, and by reset. -/
def Obligations.PhaseFollowsSequence : Prop :=
  ∀ s t : State, step s = .next t →
    ((turnOf s).rst = true → t.phase = .idle) ∧
    ((turnOf s).rst = false → t.phase = s.phase ∨ t.phase ∈ nextPhases s.phase)

/-- The trace only grows, each entry by an agent that emits its kind; a step emits at most one pin or SPI event
(00_scope.md §5; 20_memory.md §4). -/
def Obligations.TraceGrows : Prop :=
  ∀ s t : State, step s = .next t →
    ∃ new, t.trace = s.trace ++ new ∧ (∀ e ∈ new, wellTagged s.csLine e) ∧
      (new.filter (fun e => isPinOrSpi e.event)).length ≤ 1

/-- The invariant holds at reset, and the empty trace at reset conforms. -/
def Obligations.InvariantAtReset : Prop :=
  Inv State.reset ∧ TraceConforms State.reset

/-- Every step keeps the invariant: CS follows the phase (10_state.md §10), requests only in SPI phases, the bus held
only as owner, the fault recorded exactly in FAULT. -/
def Obligations.StepKeepsInvariant : Prop :=
  ∀ s t : State, Inv s → step s = .next t → Inv t

/-- Every step, by whichever agent, keeps this block's events in the order of whole commands (20_memory.md §4;
40_begin.md §3; 41_write.md §4). -/
def Obligations.StepKeepsTraceConforming : Prop :=
  ∀ s t : State, Inv s → TraceConforms s → step s = .next t → TraceConforms t

/-- Progress (70_reset_and_hazards.md §2): a running command can always take a step, unless it waits for a bus somebody
owns; each of its steps brings its end one nearer; no other step but a reset moves it. -/
def Obligations.EveryStepCounts : Prop :=
  ∀ s : State, Inv s → 0 < stepsLeft s →
    (sequencerEnabled s = true ∨ acknowledgeEnabled s = true ∨ (s.phase = .wOpen ∧ s.req = .wait ∧ s.bus ≠ none)) ∧
    (∀ t, step s = .next t → (turnOf s).rst = false →
      ((turnOf s).move = .sequencer ∧ sequencerEnabled s = true ∨
          (turnOf s).move = .acknowledge .thisBlock ∧ acknowledgeEnabled s = true) →
        stepsLeft t + 1 = stepsLeft s) ∧
    (∀ t, step s = .next t → (turnOf s).rst = false →
      ¬ ((turnOf s).move = .sequencer ∧ sequencerEnabled s = true ∨
          (turnOf s).move = .acknowledge .thisBlock ∧ acknowledgeEnabled s = true) →
        stepsLeft t = stepsLeft s)

/-- Every running command that needs the bus no more, holds it, or finds it free can run to its end: from any state of a
running command in which the bus is free if the command has yet to be granted it, some order of its own steps and of its
acknowledgements, exactly as many as are left, ends it, with CS driven high (41_write.md §4; 70_reset_and_hazards.md §2). -/
def Obligations.CommandCompletes : Prop :=
  ∀ (s : State) (rest : List Turn), Inv s → 0 < stepsLeft s →
    (s.phase = .wCsLow ∨ s.phase = .wOpen ∧ s.req ≠ .ack → s.bus = none) →
    ∃ turns : List Turn, turns.length = stepsLeft s ∧
      (∀ turn ∈ turns, turn = sequencerTurn ∨ turn = acknowledgeTurn) ∧
      ∃ t, runFor (stepsLeft s) { s with schedule := turns ++ rest } = .next t ∧
        t.phase = .idle ∧ t.req = .none ∧ t.fault = .none ∧ t.initialized = true ∧ t.csOe = true ∧ t.csOut = true ∧
        t.schedule = rest

/-- Commands end under the fairness assumptions (70_reset_and_hazards.md §2). Take any infinite run with no reset of this
block from step `n` on, from a state of the invariant in which this block does not own a bus it does not hold. Under
assumptions (a), (b) and (c) the block reaches IDLE or FAULT, or else it waits in W_OPEN while foreign users are granted
the bus before it again and again for ever, which (a) as written does not rule out. Under the stronger form of (a), that
an acknowledgement enabled again and again is taken, it reaches IDLE or FAULT in every such run (log 29). -/
def Obligations.FairCommandsEnd : Prop :=
  ∀ (turns : Nat → Turn) (run : Nat → State) (n : Nat),
    RunUnder turns run → Inv (run n) → (busOwner (run n) = some .thisBlock → holdsBus (run n) = true) →
    (∀ m, n ≤ m → (turns m).rst = false) →
    CollaboratorWeaklyFair turns run → ForeignUsersFinish run → SequencerWeaklyFair turns run →
    ((∃ m, n ≤ m ∧ ((run m).phase = .idle ∨ (run m).phase = .fault)) ∨
      ∀ m, n ≤ m → ∃ k, m ≤ k ∧ (run k).phase = .wOpen ∧ (run k).req = .wait ∧ (run k).bus = none ∧
        ∃ user, busOwner (run (k + 1)) = some (.foreign user)) ∧
    (CollaboratorStronglyFair turns run → ∃ m, n ≤ m ∧ ((run m).phase = .idle ∨ (run m).phase = .fault))
end

