-- ==== Sys2Proof/Laws/Bits.lean ====
section
/-! SUPPORT. The bits of the packed words, one lemma a word, and what follows for their fields. -/

namespace Sys2Proof

open Machine

theorem getLsbD_ofBool (b : Bool) (i : Nat) : (BitVec.ofBool b).getLsbD i = (decide (i = 0) && b) := by
  cases b <;> cases i <;> simp [BitVec.ofBool]

theorem getLsbD_packCfg (c : BusCfg) (i : Nat) :
    (packCfg c).getLsbD i =
      if i < 2 then c.mode.getLsbD i else if i < 3 then c.bitOrder else c.clockHz.getLsbD (i - 3) := by
  have h₁ := BitVec.getLsbD_append (x := c.clockHz ++ BitVec.ofBool c.bitOrder) (y := c.mode) (i := i)
  have h₂ := BitVec.getLsbD_append (x := c.clockHz) (y := BitVec.ofBool c.bitOrder) (i := i - 2)
  refine h₁.trans ?_
  rw [h₂]
  by_cases a : i < 2
  · simp [a]
  · by_cases b : i = 2
    · simp [b]
    · have e : ¬ i < 3 := by omega
      have f : ¬ i - 2 < 1 := by omega
      simp [a, e, f, show i - 2 - 1 = i - 3 by omega]

theorem unpackCfg_packCfg (c : BusCfg) : unpackCfg (packCfg c) = c := by
  have hc : (packCfg c).extractLsb' 3 32 = c.clockHz := by
    apply BitVec.eq_of_getLsbD_eq; intro i hi
    rw [BitVec.getLsbD_extractLsb', getLsbD_packCfg]
    have h1 : ¬ 3 + i < 2 := by omega
    simp [hi, h1]
  have hm : (packCfg c).extractLsb' 0 2 = c.mode := by
    apply BitVec.eq_of_getLsbD_eq; intro i hi
    rw [BitVec.getLsbD_extractLsb', getLsbD_packCfg]
    simp [hi]
  have ho : (packCfg c).getLsbD 2 = c.bitOrder := by rw [getLsbD_packCfg]; simp
  simp only [unpackCfg, hc, hm, ho]

theorem getLsbD_encodeBegin (ignored : BitVec 20) (i : Nat) :
    (encodeBegin ignored).getLsbD i = ignored.getLsbD i := by
  have h := BitVec.getLsbD_append (x := BitVec.ofBool false) (y := ignored) (i := i)
  refine h.trans ?_
  by_cases a : i < 20
  · simp [a]
  · rw [getLsbD_ofBool, BitVec.getLsbD_of_ge _ _ (by omega)]; simp

/-- The bits of a WRITE's command word (30_encoding.md R51). -/
theorem getLsbD_encodeWrite (ch buf g1x act : Bool) (value : BitVec 16) (i : Nat) :
    (encodeWrite ch buf g1x act value).getLsbD i =
      if i < 16 then value.getLsbD i else if i = 16 then act else if i = 17 then g1x else if i = 18 then buf
      else if i = 19 then ch else decide (i = 20) := by
  have h₁ := BitVec.getLsbD_append (x := BitVec.ofBool true ++ BitVec.ofBool ch ++ BitVec.ofBool buf ++
    BitVec.ofBool g1x ++ BitVec.ofBool act) (y := value) (i := i)
  have h₂ := BitVec.getLsbD_append (x := BitVec.ofBool true ++ BitVec.ofBool ch ++ BitVec.ofBool buf ++
    BitVec.ofBool g1x) (y := BitVec.ofBool act) (i := i - 16)
  have h₃ := BitVec.getLsbD_append (x := BitVec.ofBool true ++ BitVec.ofBool ch ++ BitVec.ofBool buf)
    (y := BitVec.ofBool g1x) (i := i - 16 - 1)
  have h₄ := BitVec.getLsbD_append (x := BitVec.ofBool true ++ BitVec.ofBool ch) (y := BitVec.ofBool buf)
    (i := i - 16 - 1 - 1)
  have h₅ := BitVec.getLsbD_append (x := BitVec.ofBool true) (y := BitVec.ofBool ch) (i := i - 16 - 1 - 1 - 1)
  refine h₁.trans ?_
  rw [h₂, h₃, h₄, h₅]
  simp only [getLsbD_ofBool]
  by_cases a : i < 16
  · simp [a]
  · simp only [a, if_false]
    obtain ⟨k, rfl⟩ := Nat.exists_eq_add_of_le (show 16 ≤ i by omega)
    rcases k with _ | _ | _ | _ | _ | k
    iterate 5 simp
    have n₁ : ¬ 16 + (k + 1 + 1 + 1 + 1 + 1) = 17 := by omega
    have n₂ : ¬ 16 + (k + 1 + 1 + 1 + 1 + 1) = 18 := by omega
    have n₃ : ¬ 16 + (k + 1 + 1 + 1 + 1 + 1) = 19 := by omega
    have n₄ : ¬ 16 + (k + 1 + 1 + 1 + 1 + 1) = 20 := by omega
    simp [n₁, n₂, n₃, n₄]

/-- The bits of a packed frame (41_write.md R73, R76). -/
theorem getLsbD_pack (ch buf g1x act : Bool) (value : BitVec 16) (i : Nat) :
    (pack ch buf g1x act value).getLsbD i =
      if i < 12 then value.getLsbD i else if i = 12 then act else if i = 13 then g1x else if i = 14 then buf
      else decide (i = 15) && ch := by
  have h₁ := BitVec.getLsbD_append (x := firstByte ch buf g1x act value) (y := secondByte value) (i := i)
  have h₂ := BitVec.getLsbD_append (x := configBits ch buf g1x act) (y := value.extractLsb' 8 4) (i := i - 8)
  have h₃ := BitVec.getLsbD_append (x := BitVec.ofBool ch ++ BitVec.ofBool buf ++ BitVec.ofBool g1x)
    (y := BitVec.ofBool act) (i := i - 8 - 4)
  have h₄ := BitVec.getLsbD_append (x := BitVec.ofBool ch ++ BitVec.ofBool buf) (y := BitVec.ofBool g1x)
    (i := i - 8 - 4 - 1)
  have h₅ := BitVec.getLsbD_append (x := BitVec.ofBool ch) (y := BitVec.ofBool buf) (i := i - 8 - 4 - 1 - 1)
  refine h₁.trans ?_
  have e₂ : (firstByte ch buf g1x act value).getLsbD (i - 8) = _ := h₂
  have e₃ : (configBits ch buf g1x act).getLsbD (i - 8 - 4) = _ := h₃
  rw [e₂, e₃, h₄, h₅]
  simp only [getLsbD_ofBool, secondByte, BitVec.getLsbD_extractLsb']
  by_cases a : i < 8
  · simp [a, show i < 12 by omega]
  · obtain ⟨k, rfl⟩ := Nat.exists_eq_add_of_le (show 8 ≤ i by omega)
    by_cases b : k < 4
    · simp [b, show 8 + k < 12 by omega]
    · obtain ⟨m, rfl⟩ := Nat.exists_eq_add_of_le (show 4 ≤ k by omega)
      rcases m with _ | _ | _ | _ | m
      iterate 4 simp
      have n : ¬ 8 + (4 + (m + 1 + 1 + 1 + 1)) < 12 := by omega
      have n₁ : ¬ 8 + (4 + (m + 1 + 1 + 1 + 1)) = 13 := by omega
      have n₂ : ¬ 8 + (4 + (m + 1 + 1 + 1 + 1)) = 14 := by omega
      have n₃ : ¬ 8 + (4 + (m + 1 + 1 + 1 + 1)) = 15 := by omega
      have n₄ : ¬ 8 + (4 + (m + 1 + 1 + 1 + 1)) = 12 := by omega
      simp [n, n₁, n₂, n₃, n₄]

end Sys2Proof
end

