-- ==== Sys2Proof/Laws/State.lean ====
section
/-! SUPPORT. What each basic update does to each field of the state: one lemma a field, true by rfl. -/

namespace Sys2Proof.Machine

@[simp] theorem ownerOf_thisBlock : ownerOf .thisBlock = .thisBlock := rfl
@[simp] theorem ownerOf_foreign (user : Nat) : ownerOf (.foreign user) = .foreign user := rfl

variable (s : State)

@[simp] theorem emit_csLine (a : Agent) (e : Event) : (emit a e s).csLine = s.csLine := rfl
@[simp] theorem emit_cfg (a : Agent) (e : Event) : (emit a e s).cfg = s.cfg := rfl
@[simp] theorem emit_csOe (a : Agent) (e : Event) : (emit a e s).csOe = s.csOe := rfl
@[simp] theorem emit_csOut (a : Agent) (e : Event) : (emit a e s).csOut = s.csOut := rfl
@[simp] theorem emit_initialized (a : Agent) (e : Event) : (emit a e s).initialized = s.initialized := rfl
@[simp] theorem emit_fault (a : Agent) (e : Event) : (emit a e s).fault = s.fault := rfl
@[simp] theorem emit_frame (a : Agent) (e : Event) : (emit a e s).frame = s.frame := rfl
@[simp] theorem emit_phase (a : Agent) (e : Event) : (emit a e s).phase = s.phase := rfl
@[simp] theorem emit_req (a : Agent) (e : Event) : (emit a e s).req = s.req := rfl
@[simp] theorem emit_cmdValid (a : Agent) (e : Event) : (emit a e s).cmdValid = s.cmdValid := rfl
@[simp] theorem emit_cmd (a : Agent) (e : Event) : (emit a e s).cmd = s.cmd := rfl
@[simp] theorem emit_spiRdata (a : Agent) (e : Event) : (emit a e s).spiRdata = s.spiRdata := rfl
@[simp] theorem emit_bus (a : Agent) (e : Event) : (emit a e s).bus = s.bus := rfl
@[simp] theorem emit_foreignReqs (a : Agent) (e : Event) : (emit a e s).foreignReqs = s.foreignReqs := rfl
@[simp] theorem emit_wire (a : Agent) (e : Event) : (emit a e s).wire = s.wire := rfl
@[simp] theorem emit_trace (a : Agent) (e : Event) : (emit a e s).trace = s.trace ++ [⟨a, e⟩] := rfl
@[simp] theorem emit_schedule (a : Agent) (e : Event) : (emit a e s).schedule = s.schedule := rfl
@[simp] theorem emit_tick (a : Agent) (e : Event) : (emit a e s).tick = s.tick := rfl

@[simp] theorem putWire_csLine (items : List WireItem) : (putWire items s).csLine = s.csLine := rfl
@[simp] theorem putWire_cfg (items : List WireItem) : (putWire items s).cfg = s.cfg := rfl
@[simp] theorem putWire_csOe (items : List WireItem) : (putWire items s).csOe = s.csOe := rfl
@[simp] theorem putWire_csOut (items : List WireItem) : (putWire items s).csOut = s.csOut := rfl
@[simp] theorem putWire_initialized (items : List WireItem) : (putWire items s).initialized = s.initialized := rfl
@[simp] theorem putWire_fault (items : List WireItem) : (putWire items s).fault = s.fault := rfl
@[simp] theorem putWire_frame (items : List WireItem) : (putWire items s).frame = s.frame := rfl
@[simp] theorem putWire_phase (items : List WireItem) : (putWire items s).phase = s.phase := rfl
@[simp] theorem putWire_req (items : List WireItem) : (putWire items s).req = s.req := rfl
@[simp] theorem putWire_cmdValid (items : List WireItem) : (putWire items s).cmdValid = s.cmdValid := rfl
@[simp] theorem putWire_cmd (items : List WireItem) : (putWire items s).cmd = s.cmd := rfl
@[simp] theorem putWire_spiRdata (items : List WireItem) : (putWire items s).spiRdata = s.spiRdata := rfl
@[simp] theorem putWire_bus (items : List WireItem) : (putWire items s).bus = s.bus := rfl
@[simp] theorem putWire_foreignReqs (items : List WireItem) : (putWire items s).foreignReqs = s.foreignReqs := rfl
@[simp] theorem putWire_wire (items : List WireItem) : (putWire items s).wire = s.wire ++ items := rfl
@[simp] theorem putWire_trace (items : List WireItem) : (putWire items s).trace = s.trace := rfl
@[simp] theorem putWire_schedule (items : List WireItem) : (putWire items s).schedule = s.schedule := rfl
@[simp] theorem putWire_tick (items : List WireItem) : (putWire items s).tick = s.tick := rfl

@[simp] theorem setPhase_csLine (p : Phase) : (setPhase p s).csLine = s.csLine := rfl
@[simp] theorem setPhase_cfg (p : Phase) : (setPhase p s).cfg = s.cfg := rfl
@[simp] theorem setPhase_csOe (p : Phase) : (setPhase p s).csOe = s.csOe := rfl
@[simp] theorem setPhase_csOut (p : Phase) : (setPhase p s).csOut = s.csOut := rfl
@[simp] theorem setPhase_initialized (p : Phase) : (setPhase p s).initialized = s.initialized := rfl
@[simp] theorem setPhase_fault (p : Phase) : (setPhase p s).fault = s.fault := rfl
@[simp] theorem setPhase_frame (p : Phase) : (setPhase p s).frame = s.frame := rfl
@[simp] theorem setPhase_phase (p : Phase) : (setPhase p s).phase = p := rfl
@[simp] theorem setPhase_req (p : Phase) : (setPhase p s).req = s.req := rfl
@[simp] theorem setPhase_cmdValid (p : Phase) : (setPhase p s).cmdValid = s.cmdValid := rfl
@[simp] theorem setPhase_cmd (p : Phase) : (setPhase p s).cmd = s.cmd := rfl
@[simp] theorem setPhase_spiRdata (p : Phase) : (setPhase p s).spiRdata = s.spiRdata := rfl
@[simp] theorem setPhase_bus (p : Phase) : (setPhase p s).bus = s.bus := rfl
@[simp] theorem setPhase_foreignReqs (p : Phase) : (setPhase p s).foreignReqs = s.foreignReqs := rfl
@[simp] theorem setPhase_wire (p : Phase) : (setPhase p s).wire = s.wire := rfl
@[simp] theorem setPhase_trace (p : Phase) : (setPhase p s).trace = s.trace := rfl
@[simp] theorem setPhase_schedule (p : Phase) : (setPhase p s).schedule = s.schedule := rfl
@[simp] theorem setPhase_tick (p : Phase) : (setPhase p s).tick = s.tick := rfl

@[simp] theorem setReq_csLine (r : ReqState) : (setReq r s).csLine = s.csLine := rfl
@[simp] theorem setReq_cfg (r : ReqState) : (setReq r s).cfg = s.cfg := rfl
@[simp] theorem setReq_csOe (r : ReqState) : (setReq r s).csOe = s.csOe := rfl
@[simp] theorem setReq_csOut (r : ReqState) : (setReq r s).csOut = s.csOut := rfl
@[simp] theorem setReq_initialized (r : ReqState) : (setReq r s).initialized = s.initialized := rfl
@[simp] theorem setReq_fault (r : ReqState) : (setReq r s).fault = s.fault := rfl
@[simp] theorem setReq_frame (r : ReqState) : (setReq r s).frame = s.frame := rfl
@[simp] theorem setReq_phase (r : ReqState) : (setReq r s).phase = s.phase := rfl
@[simp] theorem setReq_req (r : ReqState) : (setReq r s).req = r := rfl
@[simp] theorem setReq_cmdValid (r : ReqState) : (setReq r s).cmdValid = s.cmdValid := rfl
@[simp] theorem setReq_cmd (r : ReqState) : (setReq r s).cmd = s.cmd := rfl
@[simp] theorem setReq_spiRdata (r : ReqState) : (setReq r s).spiRdata = s.spiRdata := rfl
@[simp] theorem setReq_bus (r : ReqState) : (setReq r s).bus = s.bus := rfl
@[simp] theorem setReq_foreignReqs (r : ReqState) : (setReq r s).foreignReqs = s.foreignReqs := rfl
@[simp] theorem setReq_wire (r : ReqState) : (setReq r s).wire = s.wire := rfl
@[simp] theorem setReq_trace (r : ReqState) : (setReq r s).trace = s.trace := rfl
@[simp] theorem setReq_schedule (r : ReqState) : (setReq r s).schedule = s.schedule := rfl
@[simp] theorem setReq_tick (r : ReqState) : (setReq r s).tick = s.tick := rfl

@[simp] theorem takeTurn_csLine : (takeTurn s).csLine = s.csLine := rfl
@[simp] theorem takeTurn_cfg : (takeTurn s).cfg = s.cfg := rfl
@[simp] theorem takeTurn_csOe : (takeTurn s).csOe = s.csOe := rfl
@[simp] theorem takeTurn_csOut : (takeTurn s).csOut = s.csOut := rfl
@[simp] theorem takeTurn_initialized : (takeTurn s).initialized = s.initialized := rfl
@[simp] theorem takeTurn_fault : (takeTurn s).fault = s.fault := rfl
@[simp] theorem takeTurn_frame : (takeTurn s).frame = s.frame := rfl
@[simp] theorem takeTurn_phase : (takeTurn s).phase = s.phase := rfl
@[simp] theorem takeTurn_req : (takeTurn s).req = s.req := rfl
@[simp] theorem takeTurn_cmdValid : (takeTurn s).cmdValid = s.cmdValid := rfl
@[simp] theorem takeTurn_cmd : (takeTurn s).cmd = s.cmd := rfl
@[simp] theorem takeTurn_spiRdata : (takeTurn s).spiRdata = s.spiRdata := rfl
@[simp] theorem takeTurn_bus : (takeTurn s).bus = s.bus := rfl
@[simp] theorem takeTurn_foreignReqs : (takeTurn s).foreignReqs = s.foreignReqs := rfl
@[simp] theorem takeTurn_wire : (takeTurn s).wire = s.wire := rfl
@[simp] theorem takeTurn_trace : (takeTurn s).trace = s.trace := rfl
@[simp] theorem takeTurn_schedule : (takeTurn s).schedule = s.schedule.tail := rfl
@[simp] theorem takeTurn_tick : (takeTurn s).tick = s.tick + 1 := rfl

end Sys2Proof.Machine
end

