-- ==== Sys2Proof/Laws/Ops.lean ====
section
/-! SUPPORT. What each shared operation can do, said once. -/

namespace Sys2Proof.Machine

variable {s t : State}

/-- The three-way step of an SPI phase (10_state.md R24). -/
theorem spiPhase_cases (r : Request) (complete : State → State) (next : Phase) (s : State) :
    (s.req = .none ∧ spiPhase r complete next s = emit .sequencer (.spiReq r) (setReq .wait s)) ∨
    (s.req = .wait ∧ spiPhase r complete next s = s) ∨
    (s.req = .ack ∧ spiPhase r complete next s = setPhase next (complete (setReq .none s))) := by
  unfold spiPhase
  cases s.req <;> simp

theorem outstanding_eq_some {r : Request} :
    outstanding s = some r ↔ s.req = .wait ∧ phaseRequest s = some r := by
  simp [outstanding, spiReq]

/-- The acknowledgement step happens, with its effect, or nothing does (42_spi_bus.md R96). -/
theorem answer_cases (r : Request) (s : State) :
    (outstanding s = some r ∧ grantable .thisBlock r s = true ∧
      answer r s = emit .spiCollaborator (.spiAck .thisBlock (requestOp r))
        (setReq .ack (performOp .thisBlock r s))) ∨
    (¬ (outstanding s = some r ∧ grantable .thisBlock r s = true) ∧ answer r s = s) := by
  unfold answer
  split <;> simp_all

/-- A collaborator operation writes the bus, the wire log and `spi_rdata`, and nothing else. -/
theorem performOp_frame (who : Requester) (r : Request) (s : State) :
    performOp who r s =
      { s with bus := (performOp who r s).bus, wire := (performOp who r s).wire,
               spiRdata := (performOp who r s).spiRdata } := by
  cases r <;> rfl

/-- A foreign operation leaves `spi_rdata` alone. -/
theorem performOp_foreign_spiRdata (user : Nat) (r : Request) (s : State) :
    (performOp (.foreign user) r s).spiRdata = s.spiRdata := by
  cases r <;> rfl

/-- The acknowledgement step writes `req`, the bus, the wire log, `spi_rdata` and the trace, and nothing else. -/
theorem answer_frame (r : Request) (s : State) :
    answer r s =
      { s with req := (answer r s).req, bus := (answer r s).bus, wire := (answer r s).wire,
               spiRdata := (answer r s).spiRdata, trace := (answer r s).trace } := by
  rcases answer_cases r s with ⟨-, -, h⟩ | ⟨-, h⟩
  · rw [h, performOp_frame]; rfl
  · rw [h]

/-- Raising the fault writes `fault`, `phase` and the trace (60_exceptions.md R110). -/
theorem raiseFault_eq (code : FaultCode) (s : State) :
    raiseFault code s =
      { s with fault := code, phase := .fault, trace := s.trace ++ [⟨.sequencer, .fault code⟩] } := rfl

theorem driveCs_eq (level : Bool) (s : State) :
    driveCs level s =
      { s with csOut := level, wire := s.wire ++ [.cs (if s.csOe then some level else none)],
               trace := s.trace ++ [⟨.sequencer, .pinWrite s.csLine level⟩] } := rfl

theorem configureOutput_eq (s : State) :
    configureOutput s =
      { s with csOe := true, wire := s.wire ++ [.cs (some s.csOut)],
               trace := s.trace ++ [⟨.sequencer, .pinOutput s.csLine⟩] } := rfl

/-- A foreign user's request is issued, or the user has one outstanding and nothing happens. -/
theorem issueForeign_cases (user : Nat) (r : Request) (s : State) :
    (user ∉ s.foreignReqs.map Prod.fst ∧
      issueForeign user r s =
        emit (.foreignUser user) (.spiReq r) { s with foreignReqs := s.foreignReqs ++ [(user, r)] }) ∨
    (user ∈ s.foreignReqs.map Prod.fst ∧ issueForeign user r s = s) := by
  unfold issueForeign
  split <;> rename_i h <;> simp only [List.any_eq_true, beq_iff_eq] at h
  · right; obtain ⟨p, hp, rfl⟩ := h; exact ⟨List.mem_map_of_mem hp, rfl⟩
  · left; refine ⟨?_, rfl⟩
    intro hm; obtain ⟨p, hp, hu⟩ := List.mem_map.1 hm; exact h ⟨p, hp, hu⟩

/-- A foreign user's outstanding request is acknowledged, with its effect, or nothing happens. -/
theorem answerForeign_cases (user : Nat) (s : State) :
    (∃ r, (user, r) ∈ s.foreignReqs ∧ grantable (.foreign user) r s = true ∧
      answerForeign user s =
        emit .spiCollaborator (.spiAck (.foreign user) (requestOp r))
          (performOp (.foreign user) r
            { s with foreignReqs := s.foreignReqs.filter (fun p => p.1 != user) })) ∨
    answerForeign user s = s := by
  unfold answerForeign
  split
  · rename_i u r h
    have hm := List.mem_of_find?_eq_some h
    have hu := List.find?_some h
    simp only [beq_iff_eq] at hu
    subst hu
    split
    · exact .inl ⟨r, hm, ‹_›, rfl⟩
    · exact .inr rfl
  · exact .inr rfl

/-- The reset of another instance writes its requests, the bus, and the trace, and nothing else. -/
theorem resetForeign_eq (user : Nat) (s : State) :
    resetForeign user s =
      { s with foreignReqs := s.foreignReqs.filter (fun p => p.1 != user), bus := (resetForeign user s).bus,
               trace := s.trace ++ [⟨.foreignReset user, .reset⟩] } := rfl

/-- The bus after the reset of another instance: released or stranded where it owned it, as before otherwise. -/
theorem resetForeign_bus (user : Nat) (s : State) :
    (busOwner s = some (.foreign user) ∧
      ((resetForeign user s).bus = none ∨ busOwner (resetForeign user s) = some (.stranded user))) ∨
    (busOwner s ≠ some (.foreign user) ∧ (resetForeign user s).bus = s.bus) := by
  unfold resetForeign busOwner emit
  cases h : s.bus with
  | none => simp
  | some t =>
    by_cases ho : t.owner = .foreign user <;> by_cases hc : Config.foreignReleaseOnReset user = true <;> simp [ho, hc]

end Sys2Proof.Machine
end

