-- ==== Sys2Proof/Laws/PerInstr.lean ====
section
/-! SUPPORT. Facts stated for every instruction as syntax, one lemma a constructor. -/

namespace Sys2Proof.Laws.Row

open Sys2Proof

/-- The table row of an instruction accepts its own encoding (30_encoding.md R52, R56). -/
def Statement (i : Instr) : Prop :=
  match i, encode i with
  | .beginCmd _, .command w => rowMatches rowBegin w = true
  | .writeCmd _ _ _ _ _, .command w => rowMatches rowWrite w = true
  | .spiInit, .request p => rowMatches rowSpiInit p.op = true
  | .spiBegin _, .request p => rowMatches rowSpiBegin p.op = true
  | .spiXfer _, .request p => rowMatches rowSpiXfer p.op = true
  | .spiEnd, .request p => rowMatches rowSpiEnd p.op = true
  | _, _ => False

/-- The mask of the command rows keeps `cmd[20]` alone. -/
theorem and_opMask (w : CmdWord) :
    w &&& 0x100000#21 = if w.getLsbD 20 then 0x100000#21 else 0x000000#21 := by
  apply BitVec.eq_of_getLsbD_eq
  intro i hi
  have hm : (0x100000#21).getLsbD i = decide (i = 20) := by
    interval_cases i <;> rfl
  rw [BitVec.getLsbD_and, hm]
  by_cases h : i = 20
  · subst h; cases w.getLsbD 20 <;> simp
  · cases w.getLsbD 20 <;> simp [h, hm]

theorem beginCmd (ignored : BitVec 20) : Statement (.beginCmd ignored) := by
  simp only [Statement, encode, rowMatches, rowBegin, and_opMask, getLsbD_encodeBegin, beq_iff_eq]
  simp

theorem writeCmd (ch buf g1x act : Bool) (value : BitVec 16) : Statement (.writeCmd ch buf g1x act value) := by
  simp only [Statement, encode, rowMatches, rowWrite, and_opMask, getLsbD_encodeWrite, beq_iff_eq]
  simp

theorem spiInit : Statement .spiInit := by simp [Statement, encode, rowMatches, rowSpiInit]

theorem spiBegin (cfg : BusCfg) : Statement (.spiBegin cfg) := by simp [Statement, encode, rowMatches, rowSpiBegin]

theorem spiXfer (byte : Byte) : Statement (.spiXfer byte) := by simp [Statement, encode, rowMatches, rowSpiXfer]

theorem spiEnd : Statement .spiEnd := by simp [Statement, encode, rowMatches, rowSpiEnd]

end Sys2Proof.Laws.Row
end

