-- ==== Sys2Proof/Laws/Step.lean ====
section
/-! SUPPORT. What one step can do, said once; every claim over all steps starts from `step_cases`. -/

namespace Sys2Proof.Machine

variable {s t : State}

theorem next_inj {a b : State} : (Host.Outcome.next a : Host.Outcome State Fault Refusal) = .next b ↔ a = b :=
  ⟨fun h => by injection h, fun h => by rw [h]⟩

/-- No instruction stops the machine. -/
theorem exec_answers_next (i : Instr) (s : State) : ∃ t, exec i s = .next t := by
  cases i with
  | beginCmd ignored => simp only [exec, execBegin]; split <;> exact ⟨_, rfl⟩
  | writeCmd ch buf g1x act value => simp only [exec, execWrite]; split <;> exact ⟨_, rfl⟩
  | spiInit => exact ⟨_, rfl⟩
  | spiBegin cfg => exact ⟨_, rfl⟩
  | spiXfer byte => exact ⟨_, rfl⟩
  | spiEnd => exact ⟨_, rfl⟩

/-- The state after the sequencer's micro-step; the command presented is accepted in IDLE, and a sequencer with no
step enabled changes nothing. -/
def sequencerNext (s : State) : State :=
  match s.phase with
  | .idle =>
    if s.cmdValid then
      match decodeCommand s.cmd with
      | .writeCmd ch buf g1x act value => acceptWrite ch buf g1x act value s
      | .beginCmd ignored => setPhase .bPinMode (emit .sequencer (.cmdAccept (encodeBegin ignored)) s)
      | _ => s
    else s
  | .bPinMode => setPhase .bSetHigh (configureOutput s)
  | .bSetHigh => setPhase .bSpiInit (driveCs true s)
  | .bSpiInit => spiPhase .spiInit beginComplete .idle s
  | .wCsLow => setPhase .wOpen (driveCs false s)
  | .wOpen => spiPhase (.spiBegin s.cfg) id .wXfer0 s
  | .wXfer0 => spiPhase (.spiXfer (byte0 s.frame)) id .wXfer1 s
  | .wXfer1 => spiPhase (.spiXfer (byte1 s.frame)) id .wClose s
  | .wClose => spiPhase .spiEnd id .wCsHigh s
  | .wCsHigh => setPhase .idle (emit .sequencer .cmdDone (driveCs true s))
  | .fault => s

/-- The state after the SPI collaborator's move for this block. -/
def acknowledgeNext (s : State) : State :=
  match outstanding s with
  | some r => answer r s
  | none => s

/-- What the mover executes, or its own move (the part of `step` after the turn is taken). -/
def moveOutcome (m : Move) (s : State) : Host.Outcome State Fault Refusal :=
  match fetch m s with
  | some i => exec i s
  | none => environment m s

theorem decodeCommand_cases (w : CmdWord) :
    (∃ ignored, decodeCommand w = .beginCmd ignored) ∨
      ∃ ch buf g1x act value, decodeCommand w = .writeCmd ch buf g1x act value := by
  unfold decodeCommand
  split
  · exact .inl ⟨_, rfl⟩
  · exact .inr ⟨_, _, _, _, _, rfl⟩

theorem moveOutcome_sequencer (s : State) : moveOutcome .sequencer s = .next (sequencerNext s) := by
  unfold moveOutcome fetch sequencerInstr sequencerNext
  cases hp : s.phase <;>
    simp [exec, execBegin, execWrite, environment, frameCommand, hp]
  rcases decodeCommand_cases s.cmd with ⟨ig, h⟩ | ⟨c, b, g, a, v, h⟩ <;>
    by_cases hv : s.cmdValid = true <;> simp [hv, h]

/-- Whatever the port shows, with no request outstanding its operation changes nothing. -/
theorem exec_decodeRequest_of_none (p : RequestPort) (h : outstanding s = none) :
    exec (decodeRequest p) s = .next s := by
  have hf (r : Request) : ¬ (outstanding s = some r ∧ grantable .thisBlock r s = true) := by simp [h]
  unfold decodeRequest
  split
  · simp only [exec, execSpiInit, answer, hf, if_false]
  · split
    · simp only [exec, execSpiBegin, answer, hf, if_false]
    · split
      · simp only [exec, execSpiXfer, answer, hf, if_false]
      · simp only [exec, execSpiEnd, answer, hf, if_false]

theorem moveOutcome_acknowledge (s : State) :
    moveOutcome (.acknowledge .thisBlock) s = .next (acknowledgeNext s) := by
  unfold moveOutcome fetch acknowledgeNext
  by_cases hr : spiReq s = true
  · simp only [hr, if_true]
    cases ho : outstanding s with
    | none => exact exec_decodeRequest_of_none _ ho
    | some r =>
      have hcfg := unpackCfg_packCfg s.cfg
      simp only [outstanding, hr, if_true, phaseRequest] at ho
      cases hp : s.phase <;> simp only [hp, Option.some.injEq, reduceCtorEq] at ho <;> subst ho <;>
        simp [phaseRequest, requestPort, hp, requestOp, spiOpCode, decodeRequest, rowMatches, rowSpiInit, rowSpiBegin,
          rowSpiXfer, exec, execSpiInit, execSpiBegin, execSpiXfer, execSpiEnd, hcfg]
  · simp [hr, outstanding, environment]

/-- What a move that executes no instruction does; a breach of contract is refused. -/
theorem moveOutcome_environment (m : Move) (s : State) (h₁ : m ≠ .sequencer) (h₂ : m ≠ .acknowledge .thisBlock) :
    moveOutcome m s = environment m s := by
  unfold moveOutcome fetch
  cases m with
  | sequencer => exact absurd rfl h₁
  | acknowledge who =>
    cases who with
    | thisBlock => exact absurd rfl h₂
    | foreign user => rfl
  | present cmd => rfl
  | withdraw => rfl
  | foreignRequest user r => rfl
  | foreignReset user => rfl
  | breach => rfl

theorem step_eq (s : State) :
    step s = if (turnOf s).rst then .next (resetStep (takeTurn s))
      else moveOutcome (turnOf s).move (takeTurn s) := rfl

/-- Everything a step that answers a next state can be: a reset step, the sequencer's micro-step, the acknowledgement
of this block's request, a move of the host, or a move for a foreign user. -/
theorem step_cases (h : step s = .next t) :
    ((turnOf s).rst = true ∧ t = resetStep (takeTurn s)) ∨
    ((turnOf s).rst = false ∧
      (((turnOf s).move = .sequencer ∧ t = sequencerNext (takeTurn s)) ∨
       ((turnOf s).move = .acknowledge .thisBlock ∧ t = acknowledgeNext (takeTurn s)) ∨
       (∃ cmd, (turnOf s).move = .present cmd ∧ t = { takeTurn s with cmdValid := true, cmd := cmd }) ∨
       ((turnOf s).move = .withdraw ∧ t = { takeTurn s with cmdValid := false }) ∨
       (∃ user, (turnOf s).move = .acknowledge (.foreign user) ∧ t = answerForeign user (takeTurn s)) ∨
       (∃ user r, (turnOf s).move = .foreignRequest user r ∧ t = issueForeign user r (takeTurn s)) ∨
       (∃ user, (turnOf s).move = .foreignReset user ∧ t = resetForeign user (takeTurn s)))) := by
  rw [step_eq] at h
  cases hr : (turnOf s).rst with
  | true => simp only [hr, if_true, next_inj] at h; exact .inl ⟨rfl, h.symm⟩
  | false =>
    simp only [hr, Bool.false_eq_true, if_false] at h
    refine .inr ⟨rfl, ?_⟩
    cases hm : (turnOf s).move with
    | sequencer =>
      rw [hm, moveOutcome_sequencer, next_inj] at h; exact .inl ⟨rfl, h.symm⟩
    | acknowledge who =>
      cases who with
      | thisBlock => rw [hm, moveOutcome_acknowledge, next_inj] at h; exact .inr (.inl ⟨rfl, h.symm⟩)
      | foreign user =>
        rw [hm, moveOutcome_environment _ _ (by simp) (by simp)] at h
        simp only [environment, next_inj] at h
        exact .inr (.inr (.inr (.inr (.inl ⟨user, rfl, h.symm⟩))))
    | present cmd =>
      rw [hm, moveOutcome_environment _ _ (by simp) (by simp)] at h
      simp only [environment, next_inj] at h
      exact .inr (.inr (.inl ⟨cmd, rfl, h.symm⟩))
    | withdraw =>
      rw [hm, moveOutcome_environment _ _ (by simp) (by simp)] at h
      simp only [environment, next_inj] at h
      exact .inr (.inr (.inr (.inl ⟨rfl, h.symm⟩)))
    | foreignRequest user r =>
      rw [hm, moveOutcome_environment _ _ (by simp) (by simp)] at h
      simp only [environment, next_inj] at h
      exact .inr (.inr (.inr (.inr (.inr (.inl ⟨user, r, rfl, h.symm⟩)))))
    | foreignReset user =>
      rw [hm, moveOutcome_environment _ _ (by simp) (by simp)] at h
      simp only [environment, next_inj] at h
      exact .inr (.inr (.inr (.inr (.inr (.inr ⟨user, rfl, h.symm⟩)))))
    | breach =>
      rw [hm, moveOutcome_environment _ _ (by simp) (by simp)] at h
      simp [environment] at h

end Sys2Proof.Machine
end

