-- ==== Sys2Proof/Laws/Run.lean ====
section
/-! SUPPORT. Runs of several steps, one step at a time. -/

namespace Sys2Proof.Safety

open Sys2Proof.Machine

theorem runFor_zero (s : State) : runFor 0 s = .next s := rfl

/-- One step of any machine's run. -/
theorem coreRun_succ (M : Host.Core) (k : Nat) (s t : M.State) (h : M.step s = .next t) :
    M.run (k + 1) s = M.run k t := by
  simp [Host.Core.run, h]

theorem runFor_succ (k : Nat) {s t : State} (h : step s = .next t) : runFor (k + 1) s = runFor k t :=
  coreRun_succ Sys2Proof.core k s t h

/-- The next turn is the sequencer's. -/
theorem step_sequencerTurn {s : State} {rest : List Turn} (h : s.schedule = sequencerTurn :: rest) :
    step s = .next (sequencerNext (takeTurn s)) := by
  rw [step_eq]
  simp [turnOf, h, sequencerTurn, moveOutcome_sequencer]

/-- The next turn is the acknowledgement of this block's request. -/
theorem step_acknowledgeTurn {s : State} {rest : List Turn} (h : s.schedule = acknowledgeTurn :: rest) :
    step s = .next (acknowledgeNext (takeTurn s)) := by
  rw [step_eq]
  simp [turnOf, h, acknowledgeTurn, moveOutcome_acknowledge]

end Sys2Proof.Safety
end

