-- ==== Sys2Proof/WellFormed.lean ====
section
/-! DEFINITION. Which instructions an issuer writes: ignored fields are 0 (30_encoding.md R54, R61). -/

namespace Sys2Proof

/-- The instruction as an assembler emits it: BEGIN with 0 in its ignored field.
WRITE has no such condition, since an assembler encodes a value of 4096 or more as written (30_encoding.md R58).
This is no condition on execution: "A decoder must accept any value in an ignored field" (R54),
and every instruction, well-formed or not, is decoded, encoded and run. The widths are in the types. -/
def Instr.wellFormed : Instr → Bool
  | .beginCmd ignored => ignored == 0#20
  | .writeCmd _ _ _ _ _ => true
  | .spiInit => true
  | .spiBegin _ => true
  | .spiXfer _ => true
  | .spiEnd => true

end Sys2Proof
end

