-- ==== Sys2Proof/Tests/Slice0.lean ====
section
/-! SUPPORT. Tests of the model on small states. Expected values are those of 95_test_vectors.md, whose vector a test
names, or are worked out by hand from the rule it names. The last part gives, for every statement with hypotheses, a
state that meets them. -/

namespace Sys2Proof.Tests

open Sys2Proof.Machine Sys2Proof.Safety

/-- The next state, if there is one. -/
def after (o : Host.Outcome State Fault Refusal) : Option State :=
  match o with
  | .next t => some t
  | .fault _ => none
  | .refused _ => none

/-- A block idle after a BEGIN. -/
def ready : State :=
  { State.reset with cfg := cfgDac, csOe := true, csOut := true, initialized := true, wire := [.cs (some true)] }

/-- A block in this phase of a WRITE of frame 0x39B0, which owns the bus where it holds it. -/
def writing (p : Phase) (r : ReqState) : State :=
  let s := { ready with phase := p, req := r, frame := 0x39B0#16, csOut := !isCsLowPhase p }
  { s with bus := if holdsBus s then some ⟨.thisBlock, cfgDac⟩ else none }

/-- A block in this phase of its first BEGIN. -/
def beginning (p : Phase) (r : ReqState) : State :=
  { State.reset with phase := p, req := r, csOe := p != .bPinMode, csOut := p == .bSpiInit }

/-- A block in FAULT. -/
def faulted : State :=
  { State.reset with phase := .fault, fault := .writeBeforeBegin }

/-- The host presents this word. -/
def presenting (w : CmdWord) (s : State) : State :=
  { s with cmdValid := true, cmd := w }

/-- These turns come next. -/
def withTurns (ts : List Turn) (s : State) : State :=
  { s with schedule := ts }

/-- The turn of a reset. -/
def resetTurn : Turn := ⟨true, .sequencer⟩

-- Well-formedness

theorem test_wellFormed_begin : (Instr.beginCmd 0#20).wellFormed = true := by decide

/-- Ill-formed: an ignored bit set. It decodes and runs all the same (E2). -/
theorem test_wellFormed_begin_ignored : (Instr.beginCmd 1#20).wellFormed = false := by decide

/-- V7: a value out of range is encoded as written. -/
theorem test_wellFormed_write : (Instr.writeCmd false false true true 65535#16).wellFormed = true := by decide

theorem test_wellFormed_spi :
    Instr.spiInit.wellFormed && (Instr.spiBegin cfgDac).wellFormed && (Instr.spiXfer 0xFF#8).wellFormed &&
      Instr.spiEnd.wellFormed = true := by decide

-- Decoding: one word at least for every constructor, bit by bit as 30_encoding.md lays it out

/-- E1. -/
theorem test_decode_begin : decodeCommand 0b0_0000_0000_0000_0000_0000#21 = .beginCmd 0#20 := by decide

/-- E3: a WRITE's fields with `op` = 0 are a BEGIN's ignored bits. -/
theorem test_decode_begin_fields : decodeCommand 0x0309B0#21 = .beginCmd 0x309B0#20 := by decide

/-- E6: `op` 1, `ch` 0, `buf` 0, `g1x` 1, `act` 1, `value` 2480. -/
theorem test_decode_write :
    decodeCommand 0b1_0011_0000_1001_1011_0000#21 = .writeCmd false false true true 2480#16 := by decide

/-- V10 and V11: each flag from its own bit. -/
theorem test_decode_write_flags :
    decodeCommand 0x150123#21 = .writeCmd false true false true 0x123#16 ∧
      decodeCommand 0x180800#21 = .writeCmd true false false false 0x800#16 := by decide

/-- 30_encoding.md R56. -/
theorem test_decode_spiInit : decodeRequest ⟨0b00#2, 0x009896804#35, 0x39#8⟩ = .spiInit := by decide

/-- 30_encoding.md R57: `clock_hz` 3, `bit_order` 0, `mode` 2. -/
theorem test_decode_spiBegin :
    decodeRequest ⟨0b01#2, 0b11_0_10#35, 0x39#8⟩ = .spiBegin ⟨3#32, false, 2#2⟩ := by decide

theorem test_decode_spiXfer : decodeRequest ⟨0b10#2, 0x009896804#35, 0x39#8⟩ = .spiXfer 0x39#8 := by decide

theorem test_decode_spiEnd : decodeRequest ⟨0b11#2, 0x009896804#35, 0x39#8⟩ = .spiEnd := by decide

/-- The table's numbering, and numbers too wide for a row. -/
theorem test_decodeTableWord :
    decodeTableWord 21 0x1309B0 = some (.writeCmd false false true true 2480#16) ∧
      decodeTableWord 24 0 = some (.beginCmd 0#20) ∧ decodeTableWord 8 3 = some .spiEnd ∧
      decodeTableWord 2 1 = some (.spiBegin ⟨0#32, false, 0#2⟩) ∧
      decodeTableWord 24 0x200000 = none ∧ decodeTableWord 8 4 = none := by decide

/-- 95_test_vectors.md §2.6. -/
theorem test_cfg_word : packCfg cfgDac = 0x009896804#35 ∧ unpackCfg 160000004#35 = cfgDac := by decide

/-- V9 and V12. -/
theorem test_encode_write :
    encode (.writeCmd true true true true 0xABC#16) = .command 0x1F0ABC#21 ∧
      encode (.writeCmd false false false true 5000#16) = .command 0x111388#21 := by decide

-- The assembler (95_test_vectors.md §2.4)

/-- X1 and X2. -/
theorem test_asm_forms :
    assembleLine ("WRITE 2480".toList) = .ok (some (.writeCmd false false true true 2480#16)) ∧
      assembleLine ("WRITE true, 4095".toList) = .ok (some (.writeCmd true false true true 4095#16)) := by decide

/-- X4, X5 and X6. -/
theorem test_asm_rejects :
    assembleLine ("WRITE 65536".toList) = .error .badValue ∧
      assembleLine ("WRITE 1, 2, 3".toList) = .error .wrongOperandCount ∧
      assembleLine ("WRITE 2, 5".toList) = .error .badFlag := by decide

/-- V15, with a comment, and a line that is no command. -/
theorem test_asm_program :
    assembleProgram ("BEGIN\n; all\nWRITE 0, 1, 1, 0, 0x7FF ; shut".toList) =
      .ok [.beginCmd 0#20, .writeCmd false true true false 0x7FF#16] := by decide

-- Frame packing (95_test_vectors.md §2.2, §2.5)

/-- V2, V10, V15. -/
theorem test_pack :
    pack true false true true 4095#16 = 0xBFFF#16 ∧ pack false true false true 0x123#16 = 0x5123#16 ∧
      pack false true true false 0x7FF#16 = 0x67FF#16 := by decide

/-- V6, V8, V17: truncation. -/
theorem test_pack_truncates :
    pack false false true true 4096#16 = 0x3000#16 ∧ pack false false true true 8191#16 = 0x3FFF#16 ∧
      pack true true true true 0xF000#16 = 0xF000#16 := by decide

/-- V11 on the wire, both bytes. -/
theorem test_wire_bits :
    byteBits true (byte0 0x8800#16) ++ byteBits true (byte1 0x8800#16) =
      [true, false, false, false, true, false, false, false,
       false, false, false, false, false, false, false, false] := by decide

/-- The same word read back by the receiver (42_spi_bus.md R105, R108): channel B, 2x, shut down. -/
theorem test_receiver_word :
    wordOfBits (byteBits true 0x88#8 ++ byteBits true 0x00#8) = 0x8800#16 ∧
      settingOf 0x8800#16 = ⟨false, .x2, .shutdown, 0x800#12⟩ := by decide

-- One step of each instruction

/-- Acceptance of BEGIN from reset: R63. -/
theorem test_begin_accept :
    (after (exec (.beginCmd 0x309B0#20) State.reset)).map (fun t => (t.phase, t.trace)) =
      some (.bPinMode, [⟨.sequencer, .cmdAccept 0x0309B0#21⟩]) := by decide

/-- Q7. -/
theorem test_begin_completes :
    (after (exec (.beginCmd 0#20) (beginning .bSpiInit .ack))).map
        (fun t => (t.phase, t.req, t.cfg, t.initialized, status t)) =
      some (.idle, .none, ⟨20000000#32, true, 0#2⟩, true, 0b0010#4) := by decide

/-- A1. -/
theorem test_write_faults :
    (after (step (withTurns [sequencerTurn] (presenting 0x130064#21 State.reset)))).map
        (fun t => (t.phase, status t, t.trace.map Entry.event)) =
      some (.fault, 0b0101#4, [.cmdAccept 0x130064#21, .fault .writeBeforeBegin]) := by decide

/-- A7. -/
theorem test_write_truncates :
    (after (step (withTurns [sequencerTurn] (presenting 0x131388#21 ready)))).map
        (fun t => (t.phase, t.fault, t.frame)) =
      some (.wCsLow, .none, 0x3388#16) := by decide

/-- 42_spi_bus.md R97: acknowledged also while a foreign user owns the bus, which it leaves alone. -/
theorem test_spiInit :
    (after (exec .spiInit { beginning .bSpiInit .wait with bus := some ⟨.foreign 7, cfgDac⟩ })).map
        (fun t => (t.req, busOwner t, t.trace)) =
      some (.ack, some (.foreign 7), [⟨.spiCollaborator, .spiAck .thisBlock .spiInit⟩]) := by decide

/-- Q6. -/
theorem test_spiBegin_granted :
    (after (exec (.spiBegin cfgDac) (writing .wOpen .wait))).map (fun t => (t.phase, t.req, busOwner t)) =
      some (.wOpen, .ack, some .thisBlock) := by decide

/-- Q5. -/
theorem test_spiBegin_waits :
    exec (.spiBegin cfgDac) { writing .wOpen .wait with bus := some ⟨.foreign 7, cfgDac⟩ } =
      .next { writing .wOpen .wait with bus := some ⟨.foreign 7, cfgDac⟩ } := rfl

/-- Q3, and the bits of V1's first byte on the wire. -/
theorem test_spiXfer :
    (after (exec (.spiXfer 0x39#8) (writing .wXfer0 .wait))).map
        (fun t => (t.phase, t.req, t.wire.drop 1)) =
      some (.wXfer0, .ack, [.bit .thisBlock false, .bit .thisBlock false, .bit .thisBlock true, .bit .thisBlock true,
        .bit .thisBlock true, .bit .thisBlock false, .bit .thisBlock false, .bit .thisBlock true]) := by decide

/-- 42_spi_bus.md R99: not for the other byte. -/
theorem test_spiXfer_other_byte :
    exec (.spiXfer 0xB0#8) (writing .wXfer0 .wait) = .next (writing .wXfer0 .wait) := rfl

/-- 42_spi_bus.md R100. -/
theorem test_spiEnd :
    (after (exec .spiEnd (writing .wClose .wait))).map (fun t => (t.phase, t.req, busOwner t)) =
      some (.wClose, .ack, none) := by decide

-- The three-way step, the ports, reset

/-- Q1, Q2 and Q4. -/
theorem test_spi_phase :
    (after (exec (.writeCmd true true true true 0#16) (writing .wXfer0 .none))).map
        (fun t => (t.phase, t.req, t.trace)) =
      some (.wXfer0, .wait, [⟨.sequencer, .spiReq (.spiXfer 0x39#8)⟩]) ∧
    exec (.writeCmd true true true true 0#16) (writing .wXfer0 .wait) = .next (writing .wXfer0 .wait) ∧
    (after (exec (.writeCmd true true true true 0#16) (writing .wXfer0 .ack))).map (fun t => (t.phase, t.req)) =
      some (.wXfer1, .none) :=
  ⟨by decide, rfl, by decide⟩

/-- Q8, in the middle of a write: the request is abandoned and the line is no longer driven. -/
theorem test_reset_step :
    (after (step (withTurns [resetTurn] (writing .wXfer0 .wait)))).map
        (fun t => (t.phase, t.req, t.initialized, t.csOe, status t)) =
      some (.idle, .none, false, false, 0b0000#4) := by decide

/-- A2 and A3. -/
theorem test_fault_held :
    (after (step (withTurns [sequencerTurn] (presenting 0x000000#21 faulted)))).map
        (fun t => (t.phase, status t, t.trace)) = some (.fault, 0b0101#4, []) ∧
    (after (step (withTurns [resetTurn] faulted))).map status = some 0b0000#4 := by decide

/-- A5 and A6. -/
theorem test_status :
    status ready = 0b0010#4 ∧ status { ready with phase := .bPinMode } = 0b0011#4 := by decide

/-- P5 step 4: a foreign byte reaches the wire while this block waits for the bus with CS low. -/
theorem test_foreign_transfer :
    (after (step (withTurns [⟨false, .acknowledge (.foreign 7)⟩]
      { writing .wOpen .wait with bus := some ⟨.foreign 7, cfgDac⟩, foreignReqs := [(7, .spiXfer 0x80#8)] }))).map
        (fun t => (t.trace, t.foreignReqs, t.wire.length)) =
      some ([⟨.spiCollaborator, .spiAck (.foreign 7) .spiXfer⟩], [], 9) := by decide

/-- 42_spi_bus.md R101: not while this block owns the bus. -/
theorem test_foreign_excluded :
    (after (step (withTurns [⟨false, .acknowledge (.foreign 7)⟩]
      { writing .wXfer0 .wait with foreignReqs := [(7, .spiXfer 0x80#8)] }))).map (fun t => (t.trace, t.foreignReqs)) =
      some ([], [(7, .spiXfer 0x80#8)]) := by decide

/-- 60_exceptions.md R120 and 70_reset_and_hazards.md R123: the reset of another instance abandons its request, and its
event is not one of this block's. -/
theorem test_foreign_reset :
    (after (step (withTurns [⟨false, .foreignReset 7⟩]
      { writing .wXfer0 .wait with foreignReqs := [(7, .spiInit), (8, .spiEnd)] }))).map
        (fun t => (busOwner t, t.foreignReqs, t.trace)) =
      some (some .thisBlock, [(8, .spiEnd)], [⟨.foreignReset 7, .reset⟩]) ∧
    ownSinceReset [⟨.sequencer, .cmdDone⟩, ⟨.foreignReset 7, .reset⟩] = [.cmdDone] := ⟨by decide, by decide⟩

/-- 10_state.md R21, 90_conflicts.md C3: outside a write sequence no port shows what the frame latch holds. -/
theorem test_stale_frame (f : FrameWord) : requestPort { ready with frame := f } = requestPort ready := rfl

/-- 42_spi_bus.md R103: a step in which a collaborator breaks its contract is refused. -/
theorem test_breach : step (withTurns [⟨false, .breach⟩] ready) = .refused .collaboratorContractBroken := rfl

/-- The table's words are executed by the very next step. -/
theorem test_withFetchWord :
    (after (step (State.reset.withFetchWord 24 0))).map (fun t => t.phase) = some .bPinMode ∧
    (after (step (State.reset.withFetchWord 24 0x100000))).map (fun t => t.phase) = some .fault ∧
    (after (step (State.reset.withFetchWord 8 0))).map (fun t => (t.phase, t.req)) = some (.bSpiInit, .ack) ∧
    (after (step (State.reset.withFetchWord 8 1))).map (fun t => (t.phase, t.req)) = some (.wOpen, .ack) ∧
    (after (step (State.reset.withFetchWord 8 2))).map (fun t => (t.phase, t.req)) = some (.wXfer0, .ack) ∧
    (after (step (State.reset.withFetchWord 8 3))).map (fun t => (t.phase, t.req)) = some (.wClose, .ack) := by decide

/-- P3: CS is not driven in FAULT and shows the floating level. -/
theorem test_float_level : lineLevel faulted = Config.pinFloatLevel 0 := rfl

-- States that meet the hypotheses of the statements

theorem test_witness_CommandSelectedByOpBit :
    (0x0FFFFF#21).getLsbD 20 = false ∧ (0x100000#21).getLsbD 20 = true := by decide

theorem test_witness_RequestCodes :
    phaseRequest (writing .wXfer1 .none) = some (.spiXfer 0xB0#8) ∧
      phaseRequest (beginning .bSpiInit .none) = some .spiInit ∧
      phaseRequest (writing .wOpen .none) = some (.spiBegin cfgDac) ∧
      phaseRequest (writing .wClose .none) = some .spiEnd := by decide

theorem test_witness_WriteValueForm : readValue ['6', '5', '5', '3', '5'] = .ok 65535#16 := by decide

theorem test_witness_WriteChannelValueForm :
    readFlag ['t', 'r', 'u', 'e'] = .ok true ∧ readValue ['0', 'x', '0'] = .ok 0#16 ∧
      ([] : List (List Char)).length ≠ 1 ∧ ([] : List (List Char)).length ≠ 2 ∧
      ([] : List (List Char)).length ≠ 5 := by decide

theorem test_witness_AssemblerOperands :
    readFlag ['0'] = .ok false ∧ readFlag ['1'] = .ok true ∧ readNumber ['6', '5', '5', '3', '5'] = some 65535 ∧
      readNumber ['6', '5', '5', '3', '6'] = some 65536 ∧ 65535 < 65536 ∧ readNumber ['0', 'x'] = none ∧
      [(9 : Fin 10)] ≠ [] ∧ [((15 : Fin 16), true)] ≠ [] := by decide

/-- A text that is neither a list of decimal digits nor `0x` with hexadecimal digits. -/
theorem test_witness_AssemblerOperands_other :
    (∀ ds : List (Fin 10), ds ≠ [] → ['g'] ≠ ds.map decimalChar) ∧
      ∀ ds : List (Fin 16 × Bool), ds ≠ [] → ['g'] ≠ '0' :: 'x' :: ds.map hexChar := by
  refine ⟨fun ds _ h => ?_, fun ds _ h => ?_⟩
  · cases ds with
    | nil => simp at h
    | cons d ds =>
      injection h with h
      exact (by decide : ∀ d : Fin 10, 'g' ≠ decimalChar d) d h
  · injection h with h
    exact absurd h (by decide)

theorem test_witness_ValueTruncated :
    (writing .wOpen .none).phase ≠ .idle ∧ ready.phase = .idle ∧ ready.initialized = true ∧
      State.reset.phase = .idle ∧ State.reset.initialized = false := by decide

theorem test_witness_PackArithmetic :
    (4095#16).toNat < 4096 ∧ pack true false true false 4095#16 = pack true false true false 4095#16 := by decide

theorem test_witness_CommandTakenInIdle :
    (presenting 0#21 ready).phase = .idle ∧ (presenting 0#21 ready).cmdValid = true ∧ ready.cmdValid = false ∧
      (writing .wCsLow .none).phase ≠ .idle := by decide

theorem test_witness_RequestPortStable :
    Inv (writing .wXfer0 .wait) ∧ (writing .wXfer0 .wait).req = .wait ∧
      (∃ t, step (withTurns [acknowledgeTurn] (writing .wXfer0 .wait)) = .next t) ∧
      (turnOf (withTurns [acknowledgeTurn] (writing .wXfer0 .wait))).rst = false :=
  ⟨by decide, by decide, ⟨_, rfl⟩, by decide⟩

theorem test_witness_BeginAccepted :
    State.reset.phase = .idle ∧
      (fun s : State => s.phase = .idle ∧ s.cmdValid = true ∧ s.cmd.getLsbD 20 = false ∧ turnOf s = sequencerTurn)
        (withTurns [sequencerTurn] (presenting 0x0FFFFF#21 ready)) := by decide

theorem test_witness_BeginConfiguresOutput : (beginning .bPinMode .none).phase = .bPinMode := by decide

theorem test_witness_BeginDrivesHigh : (beginning .bSetHigh .none).phase = .bSetHigh := by decide

theorem test_witness_BeginInitialisesBus :
    (beginning .bSpiInit .none).phase = .bSpiInit ∧ (beginning .bSpiInit .none).req = .none ∧
      (beginning .bSpiInit .wait).req = .wait ∧ (beginning .bSpiInit .ack).req = .ack := by decide

/-- The hypotheses of `BeginRuns`, and with them those of `RepeatedBeginKeepsCsHigh`, first BEGIN and later one. -/
theorem test_witness_BeginRuns :
    let s := withTurns beginTurns (presenting (encodeBegin 0xFFFFF#20) State.reset)
    s.phase = .idle ∧ s.req = .none ∧ s.cmdValid = true ∧ s.cmd = encodeBegin 0xFFFFF#20 ∧
      s.schedule = beginTurns ++ [] ∧ Inv s := by decide

theorem test_witness_RepeatedBeginKeepsCsHigh :
    let s := withTurns beginTurns (presenting (encodeBegin 0#20) ready)
    Inv s ∧ s.initialized = true ∧ s.phase = .idle ∧ s.cmdValid = true ∧ s.cmd = encodeBegin 0#20 ∧
      s.schedule = beginTurns ++ [] := by decide

/-- The last step of a BEGIN, a first one and a repeated one; and a step in the middle of a repeated one. -/
theorem test_witness_RepeatedBeginKeepsCsHigh_steps :
    (fun s : State => Inv s ∧ s.phase = .bSpiInit ∧ (turnOf s).rst = false ∧
        ∃ t, step s = .next t ∧ t.phase = .idle) (withTurns [sequencerTurn] (beginning .bSpiInit .ack)) ∧
      (fun s : State => Inv s ∧ s.initialized = true ∧ s.phase = .bSpiInit ∧ (turnOf s).rst = false ∧
        ∃ t, step s = .next t ∧ t.phase = .idle)
        (withTurns [sequencerTurn] { ready with phase := .bSpiInit, req := .ack }) ∧
      (fun s : State => Inv s ∧ s.initialized = true ∧ s.phase = .bPinMode ∧ (turnOf s).rst = false ∧
        ∃ t, step s = .next t) (withTurns [sequencerTurn] { ready with phase := .bPinMode }) :=
  ⟨⟨by decide, by decide, by decide, _, rfl, rfl⟩, ⟨by decide, by decide, by decide, by decide, _, rfl, rfl⟩,
    ⟨by decide, by decide, by decide, by decide, _, rfl⟩⟩

theorem test_witness_BeginFrame :
    (∃ t, exec (.beginCmd 0#20) ready = .next t) ∧ (∃ t, exec (.beginCmd 0#20) (beginning .bPinMode .none) = .next t) ∧
      (∃ t, exec (.beginCmd 0#20) (beginning .bSetHigh .none) = .next t) ∧
      ∃ t, exec (.beginCmd 0#20) (beginning .bSpiInit .ack) = .next t :=
  ⟨⟨_, rfl⟩, ⟨_, rfl⟩, ⟨_, rfl⟩, ⟨_, rfl⟩⟩

theorem test_witness_WriteAccepted :
    ready.phase = .idle ∧ ready.initialized = true ∧
      (fun s : State => s.phase = .idle ∧ s.cmdValid = true ∧ s.cmd.getLsbD 20 = true ∧ s.initialized = true ∧
        turnOf s = sequencerTurn) (withTurns [sequencerTurn] (presenting 0x100000#21 ready)) := by decide

theorem test_witness_WriteBeforeBeginFaults : State.reset.phase = .idle ∧ State.reset.initialized = false := by decide

theorem test_witness_WriteAssertsCs : (writing .wCsLow .none).phase = .wCsLow := by decide

theorem test_witness_WriteSpiPhases :
    ((writing .wOpen .none).phase = .wOpen ∧ (writing .wOpen .none).req = .none) ∧
      ((writing .wXfer0 .wait).phase = .wXfer0 ∧ (writing .wXfer0 .wait).req = .wait) ∧
      ((writing .wXfer1 .ack).phase = .wXfer1 ∧ (writing .wXfer1 .ack).req = .ack) ∧
      ((writing .wClose .ack).phase = .wClose ∧ (writing .wClose .ack).req = .ack) := by decide

theorem test_witness_WriteDeassertsCs : (writing .wCsHigh .none).phase = .wCsHigh := by decide

/-- A block ready for the WRITE of V2, with all the turns it takes. -/
def writeReady : State :=
  withTurns writeTurns (presenting (encodeWrite true false true true 4095#16) ready)

theorem test_witness_WriteRuns :
    Inv writeReady ∧ writeReady.initialized = true ∧ writeReady.phase = .idle ∧ writeReady.bus = none ∧
      writeReady.cmdValid = true ∧ writeReady.cmd = encodeWrite true false true true 4095#16 ∧
      writeReady.schedule = writeTurns ++ [] := by decide

theorem test_witness_ReceiverTakesFrame :
    (receiver writeReady).cs = some true ∧ (receiver writeReady).sckIdleHigh = false ∧
      ∃ t, runFor 15 writeReady = .next t :=
  ⟨by decide, by decide, ⟨_, rfl⟩⟩

theorem test_witness_WriteFrame :
    (∃ t, exec (.writeCmd false false true true 0#16) ready = .next t) ∧
      (∃ t, exec (.writeCmd false false true true 0#16) State.reset = .next t) ∧
      (∃ t, exec (.writeCmd false false true true 0#16) (writing .wCsLow .none) = .next t) ∧
      ∃ t, exec (.writeCmd false false true true 0#16) (writing .wXfer1 .ack) = .next t :=
  ⟨⟨_, rfl⟩, ⟨_, rfl⟩, ⟨_, rfl⟩, ⟨_, rfl⟩⟩

theorem test_witness_CommandWaitsWhileBusy :
    isWritePhase (writing .wCsHigh .none).phase = true ∧ faulted.phase = .fault ∧
      (beginning .bPinMode .none).phase = .bPinMode := by decide

theorem test_witness_SpiInitAcknowledged : outstanding (beginning .bSpiInit .wait) = some .spiInit := by decide

theorem test_witness_SpiBeginGranted :
    outstanding (writing .wOpen .wait) = some (.spiBegin cfgDac) ∧ (writing .wOpen .wait).bus = none ∧
      outstanding { writing .wOpen .wait with bus := some ⟨.foreign 7, cfgDac⟩ } = some (.spiBegin cfgDac) := by decide

theorem test_witness_SpiXferShiftsByte :
    outstanding (writing .wXfer0 .wait) = some (.spiXfer 0x39#8) ∧
      (writing .wXfer0 .wait).bus = some ⟨.thisBlock, cfgDac⟩ ∧
      outstanding (writing .wXfer1 .wait) = some (.spiXfer 0xB0#8) ∧
      (writing .wXfer1 .wait).bus = some ⟨.thisBlock, cfgDac⟩ := by decide

theorem test_witness_SpiEndReleases :
    outstanding (writing .wClose .wait) = some .spiEnd ∧ busOwner (writing .wClose .wait) = some .thisBlock ∧
      (7, .spiBegin cfgDac) ∈ { writing .wClose .wait with foreignReqs := [(7, .spiBegin cfgDac)] }.foreignReqs := by
  decide

theorem test_witness_SpiWaitsForPrecondition :
    outstanding ready ≠ some .spiInit ∧ outstanding ready ≠ some (.spiBegin cfgDac) ∧
      { writing .wOpen .wait with bus := some ⟨.foreign 7, cfgDac⟩ }.bus ≠ none ∧
      outstanding (writing .wXfer0 .wait) ≠ some (.spiXfer 0xB0#8) ∧ busOwner ready ≠ some .thisBlock ∧
      outstanding ready ≠ some .spiEnd := by decide

theorem test_witness_SpiFrame :
    (∃ t, exec .spiInit (beginning .bSpiInit .wait) = .next t) ∧
      (∃ t, exec (.spiBegin cfgDac) (writing .wOpen .wait) = .next t) ∧
      (∃ t, exec (.spiXfer 0x39#8) (writing .wXfer0 .wait) = .next t) ∧
      ∃ t, exec .spiEnd (writing .wClose .wait) = .next t :=
  ⟨⟨_, rfl⟩, ⟨_, rfl⟩, ⟨_, rfl⟩, ⟨_, rfl⟩⟩

theorem test_witness_ForeignExcluded :
    busOwner (writing .wXfer0 .wait) = some .thisBlock ∧
      ∃ t, step (withTurns [⟨false, .acknowledge (.foreign 7)⟩]
        { writing .wXfer0 .wait with foreignReqs := [(7, .spiBegin cfgDac)] }) = .next t :=
  ⟨by decide, ⟨_, rfl⟩⟩

/-- A request is issued; and an XFER is outstanding with CS low in W_OPEN and in W_CSHIGH, this block not the owner. -/
theorem test_witness_ForeignUsersAct :
    (fun s : State => turnOf s = ⟨false, .foreignRequest 7 .spiInit⟩ ∧ 7 ∉ s.foreignReqs.map Prod.fst)
        (withTurns [⟨false, .foreignRequest 7 .spiInit⟩] (writing .wXfer0 .none)) ∧
      (fun s : State => ForeignDistinct s ∧ turnOf s = ⟨false, .acknowledge (.foreign 7)⟩ ∧
          (7, .spiXfer 0x80#8) ∈ s.foreignReqs ∧ busOwner s ≠ some .thisBlock ∧ s.phase = .wOpen ∧ lineLevel s = false)
        (withTurns [⟨false, .acknowledge (.foreign 7)⟩]
          { writing .wOpen .wait with bus := some ⟨.foreign 7, cfgDac⟩, foreignReqs := [(7, .spiXfer 0x80#8)] }) ∧
      (fun s : State => ForeignDistinct s ∧ turnOf s = ⟨false, .acknowledge (.foreign 7)⟩ ∧
          (7, .spiXfer 0x80#8) ∈ s.foreignReqs ∧ busOwner s ≠ some .thisBlock ∧ s.phase = .wCsHigh ∧
          lineLevel s = false)
        (withTurns [⟨false, .acknowledge (.foreign 7)⟩]
          { writing .wCsHigh .none with foreignReqs := [(7, .spiXfer 0x80#8)] }) :=
  ⟨by decide, ⟨by decide, by decide, by decide, by decide, rfl, rfl⟩,
    ⟨by decide, by decide, by decide, by decide, rfl, rfl⟩⟩

/-- INIT while this block owns the bus, BEGIN on a free bus, END by the owner. -/
theorem test_witness_ForeignUsersAct_operations :
    (fun s : State => ForeignDistinct s ∧ turnOf s = ⟨false, .acknowledge (.foreign 7)⟩ ∧ (7, .spiInit) ∈ s.foreignReqs)
        (withTurns [⟨false, .acknowledge (.foreign 7)⟩]
          { writing .wXfer0 .wait with foreignReqs := [(7, .spiInit)] }) ∧
      (fun s : State => ForeignDistinct s ∧ turnOf s = ⟨false, .acknowledge (.foreign 7)⟩ ∧
          (7, .spiBegin cfgDac) ∈ s.foreignReqs ∧ s.bus = none)
        (withTurns [⟨false, .acknowledge (.foreign 7)⟩]
          { writing .wOpen .wait with foreignReqs := [(7, .spiBegin cfgDac)] }) ∧
      (fun s : State => ForeignDistinct s ∧ turnOf s = ⟨false, .acknowledge (.foreign 7)⟩ ∧
          (7, .spiEnd) ∈ s.foreignReqs ∧ busOwner s = some (.foreign 7))
        (withTurns [⟨false, .acknowledge (.foreign 7)⟩]
          { ready with bus := some ⟨.foreign 7, cfgDac⟩, foreignReqs := [(7, .spiEnd)] }) := by decide

/-- Another instance is reset, as the owner of the bus or not; and it has left the bus its own. -/
theorem test_witness_ForeignUsersAct_reset :
    (fun s : State => turnOf s = ⟨false, .foreignReset 7⟩ ∧ busOwner s = some (.foreign 7))
        (withTurns [⟨false, .foreignReset 7⟩] { ready with bus := some ⟨.foreign 7, cfgDac⟩ }) ∧
      (fun s : State => turnOf s = ⟨false, .foreignReset 7⟩ ∧ busOwner s ≠ some (.foreign 7))
        (withTurns [⟨false, .foreignReset 7⟩] (writing .wXfer0 .wait)) ∧
      (fun s : State => Inv s ∧ busOwner s = some (.stranded 7) ∧ ∃ t, step s = .next t)
        (withTurns [⟨false, .acknowledge .thisBlock⟩]
          { writing .wOpen .wait with bus := some ⟨.stranded 7, cfgDac⟩ }) :=
  ⟨by decide, by decide, ⟨by decide, by decide, _, rfl⟩⟩

theorem test_witness_OwnBitsUnderCsLow :
    Inv (withTurns [acknowledgeTurn] (writing .wXfer0 .wait)) ∧
      ∃ t, step (withTurns [acknowledgeTurn] (writing .wXfer0 .wait)) = .next t :=
  ⟨by decide, ⟨_, rfl⟩⟩

theorem test_witness_ReceivedByteIgnored :
    ∃ t, step (withTurns [acknowledgeTurn] (writing .wXfer0 .wait)) = .next t := ⟨_, rfl⟩

theorem test_witness_FaultHeldUntilReset :
    faulted.phase = .fault ∧ (∃ t, step (withTurns [sequencerTurn] faulted) = .next t) ∧
      (turnOf (withTurns [sequencerTurn] faulted)).rst = false ∧
      (∃ t, step (withTurns [resetTurn] faulted) = .next t) ∧
      (turnOf (withTurns [resetTurn] faulted)).rst = true :=
  ⟨by decide, ⟨_, rfl⟩, by decide, ⟨_, rfl⟩, by decide⟩

/-- One step in which the sequencer holds; then a reset. -/
theorem test_witness_SilentCollaboratorHolds :
    let s := withTurns [sequencerTurn] (writing .wXfer1 .wait)
    Inv s ∧ s.req = .wait ∧
      (∀ j u, j < 1 → runFor j s = .next u → (turnOf u).rst = false ∧
        ¬ ((turnOf u).move = .acknowledge .thisBlock ∧ acknowledgeEnabled u = true)) ∧
      (∃ t, runFor 1 s = .next t) ∧ s.phase = .wXfer1 ∧
      ∃ t, step (withTurns [resetTurn] (writing .wXfer1 .wait)) = .next t := by
  refine ⟨by decide, rfl, ?_, ⟨_, rfl⟩, rfl, ⟨_, rfl⟩⟩
  intro j u hj hu
  obtain rfl : j = 0 := by omega
  injection hu with hu
  subst hu
  decide

/-- A reset step; and a bus that a reset has left owned. -/
theorem test_witness_ResetStepRule :
    (turnOf (withTurns [resetTurn] ready)).rst = true ∧
      (fun s : State => ReqOnlyInSpiPhase s ∧ busOwner s = some .thisBlock ∧ holdsBus s = false)
        (withTurns [sequencerTurn] { State.reset with bus := some ⟨.thisBlock, cfgDac⟩ }) ∧
      ∃ t, runFor 1 (withTurns [sequencerTurn] { State.reset with bus := some ⟨.thisBlock, cfgDac⟩ }) = .next t :=
  ⟨by decide, by decide, ⟨_, rfl⟩⟩

theorem test_witness_CsLineConstant :
    (∃ t, step (withTurns [sequencerTurn] (beginning .bPinMode .none)) = .next t) ∧
      ∃ t, step (withTurns [sequencerTurn] (writing .wCsLow .none)) = .next t :=
  ⟨⟨_, rfl⟩, ⟨_, rfl⟩⟩

theorem test_witness_BusyIgnoresCommandPort :
    (fun s : State => (turnOf s).rst = false ∧ (turnOf s).move = .present 0#21)
        (withTurns [⟨false, .present 0#21⟩] (writing .wXfer0 .none)) ∧
      (fun s : State => (turnOf s).rst = false ∧ (turnOf s).move = .withdraw)
        (withTurns [⟨false, .withdraw⟩] (writing .wXfer0 .none)) ∧
      busy (withTurns [sequencerTurn] (writing .wXfer0 .none)) = true ∧
      (∃ t, step (withTurns [sequencerTurn] (writing .wXfer0 .none)) = .next t) ∧
      (∀ cmd, (turnOf (withTurns [sequencerTurn] (writing .wXfer0 .none))).move ≠ .present cmd) ∧
      (turnOf (withTurns [sequencerTurn] (writing .wXfer0 .none))).move ≠ .withdraw :=
  ⟨by decide, by decide, by decide, ⟨_, rfl⟩, fun _ h => by injection h, by decide⟩

theorem test_witness_StaleFrameUnobservable :
    isWritePhase (withTurns [sequencerTurn] (presenting 0x1309B0#21 ready)).phase = false ∧
      ∃ t, step (withTurns [sequencerTurn] (presenting 0x1309B0#21 ready)) = .next t ∧ isWritePhase t.phase = true :=
  ⟨by decide, ⟨_, rfl, rfl⟩⟩

theorem test_witness_EndedWellStays :
    EndedWell (withTurns [sequencerTurn] ready) ∧ HostSilent 1 (withTurns [sequencerTurn] ready) ∧
      ∃ t, runFor 1 (withTurns [sequencerTurn] ready) = .next t := by
  refine ⟨⟨rfl, rfl, rfl, rfl, rfl⟩, ?_, ⟨_, rfl⟩⟩
  intro j u hj hu hp
  obtain rfl : j = 0 := by omega
  injection hu with hu
  subst hu
  obtain ⟨-, cmd, hc⟩ := hp
  injection hc

theorem test_witness_StepRunsFetched :
    (fun s : State => (turnOf s).rst = false ∧
        fetch (turnOf s).move (takeTurn s) = some (.writeCmd false false true true 2480#16))
      (withTurns [sequencerTurn] (presenting 0x1309B0#21 ready)) ∧
    ((presenting 0#21 ready).phase = .idle ∧ (presenting 0#21 ready).cmdValid = true) ∧
    spiReq (writing .wClose .wait) = true ∧ (beginning .bSetHigh .none).phase = .bSetHigh ∧
    isWritePhase (writing .wCsHigh .none).phase = true := by decide

theorem test_witness_RegisterWriters :
    (turnOf (withTurns [acknowledgeTurn] (writing .wOpen .wait))).rst = false ∧
      (∃ t, step (withTurns [acknowledgeTurn] (writing .wOpen .wait)) = .next t) ∧
      (turnOf (withTurns [acknowledgeTurn] (writing .wOpen .wait))).move ≠ .sequencer :=
  ⟨by decide, ⟨_, rfl⟩, by decide⟩

theorem test_witness_PhaseFollowsSequence :
    (∃ t, step (withTurns [sequencerTurn] (writing .wCsHigh .none)) = .next t) ∧
      (turnOf (withTurns [sequencerTurn] (writing .wCsHigh .none))).rst = false ∧
      (∃ t, step (withTurns [resetTurn] (writing .wCsHigh .none)) = .next t) ∧
      (turnOf (withTurns [resetTurn] (writing .wCsHigh .none))).rst = true :=
  ⟨⟨_, rfl⟩, by decide, ⟨_, rfl⟩, by decide⟩

theorem test_witness_TraceGrows :
    ∃ t, step (withTurns [⟨false, .foreignRequest 7 .spiEnd⟩] ready) = .next t ∧ t.trace.length = 1 :=
  ⟨_, rfl, rfl⟩

theorem test_witness_StepKeepsInvariant :
    Inv (withTurns [acknowledgeTurn] (writing .wClose .wait)) ∧
      ∃ t, step (withTurns [acknowledgeTurn] (writing .wClose .wait)) = .next t :=
  ⟨by decide, ⟨_, rfl⟩⟩

/-- A first BEGIN just accepted: no command has completed, and one of BEGIN's events is in the trace. -/
theorem test_witness_StepKeepsTraceConforming :
    let s := withTurns [sequencerTurn]
      { beginning .bPinMode .none with trace := [⟨.sequencer, .cmdAccept 0x000000#21⟩] }
    Inv s ∧ TraceConforms s ∧ ∃ t, step s = .next t :=
  ⟨by decide, ⟨[], by simp, rfl, .inr ⟨0#21, rfl, rfl⟩⟩, ⟨_, rfl⟩⟩

/-- A step of the sequencer, an acknowledgement, and a wait for a bus somebody else owns. -/
theorem test_witness_EveryStepCounts :
    (fun s : State => Inv s ∧ 0 < stepsLeft s ∧ sequencerEnabled s = true ∧ (turnOf s).rst = false ∧
        (turnOf s).move = .sequencer) (withTurns [sequencerTurn] (writing .wXfer0 .none)) ∧
      (fun s : State => Inv s ∧ 0 < stepsLeft s ∧ acknowledgeEnabled s = true ∧ (turnOf s).rst = false ∧
        (turnOf s).move = .acknowledge .thisBlock) (withTurns [acknowledgeTurn] (writing .wXfer0 .wait)) ∧
      (fun s : State => Inv s ∧ 0 < stepsLeft s ∧ acknowledgeEnabled s = false ∧ s.bus ≠ none ∧
        (turnOf s).rst = false) (withTurns [acknowledgeTurn]
          { writing .wOpen .wait with bus := some ⟨.foreign 7, cfgDac⟩ }) ∧
      (∃ t, step (withTurns [sequencerTurn] (writing .wXfer0 .none)) = .next t) ∧
      (∃ t, step (withTurns [acknowledgeTurn] (writing .wXfer0 .wait)) = .next t) ∧
      ∃ t, step (withTurns [acknowledgeTurn]
        { writing .wOpen .wait with bus := some ⟨.foreign 7, cfgDac⟩ }) = .next t :=
  ⟨by decide, by decide, by decide, ⟨_, rfl⟩, ⟨_, rfl⟩, ⟨_, rfl⟩⟩

/-- The hypotheses of `CommandCompletes`. -/
abbrev MayRunOut (s : State) : Prop :=
  Inv s ∧ 0 < stepsLeft s ∧ (s.phase = .wCsLow ∨ s.phase = .wOpen ∧ s.req ≠ .ack → s.bus = none)

/-- A foreign user owns the bus. -/
def foreignOwned (s : State) : State :=
  { s with bus := some ⟨.foreign 7, cfgDac⟩ }

/-- A WRITE that finds the bus free, one that holds it, and a BEGIN and two WRITEs past their END while a foreign user
owns it. -/
theorem test_witness_CommandCompletes :
    MayRunOut (writing .wCsLow .none) ∧ MayRunOut (writing .wOpen .wait) ∧ MayRunOut (writing .wXfer1 .wait) ∧
      MayRunOut (foreignOwned (beginning .bSpiInit .wait)) ∧ MayRunOut (foreignOwned (writing .wClose .ack)) ∧
      MayRunOut (foreignOwned (writing .wCsHigh .none)) :=
  ⟨by decide, by decide, by decide, by decide, by decide, by decide⟩

/-- The sequencer and the collaborator in turn. -/
def fairTurns (n : Nat) : Turn :=
  if n % 2 = 0 then sequencerTurn else acknowledgeTurn

/-- The next state of a step, which such turns always have. -/
def stepOf (turn : Turn) (s : State) : State :=
  (after (step { s with schedule := [turn] })).getD s

/-- A WRITE from its END on, run by these turns. -/
def fairRun : Nat → State
  | 0 => writing .wClose .none
  | n + 1 => stepOf (fairTurns n) (fairRun n)

/-- Idle, nothing presented, nobody on the bus. -/
def Quiet (s : State) : Prop :=
  s.phase = .idle ∧ s.req = .none ∧ s.cmdValid = false ∧ s.foreignReqs = [] ∧ s.bus = none

theorem fairRun_step (n : Nat) (s : State) :
    step { s with schedule := [fairTurns n] } = .next (stepOf (fairTurns n) s) := by
  have h : ∃ t, step { s with schedule := [fairTurns n] } = .next t := by
    unfold fairTurns
    split
    · exact ⟨_, step_sequencerTurn rfl⟩
    · exact ⟨_, step_acknowledgeTurn rfl⟩
  obtain ⟨t, h⟩ := h
  simp [stepOf, h, after]

theorem quiet_stepOf (n : Nat) (s : State) (h : Quiet s) : Quiet (stepOf (fairTurns n) s) := by
  obtain ⟨h₁, h₂, h₃, h₄, h₅⟩ := h
  have hs := fairRun_step n s
  unfold fairTurns at hs ⊢
  split at hs <;> rename_i hn <;> simp only [hn, if_true, if_false] at hs ⊢
  · rw [step_sequencerTurn rfl, next_inj] at hs
    rw [← hs]
    simp [Quiet, sequencerNext, takeTurn, h₁, h₂, h₃, h₄, h₅]
  · rw [step_acknowledgeTurn rfl, next_inj] at hs
    rw [← hs]
    simp [Quiet, acknowledgeNext, outstanding, spiReq, takeTurn, h₁, h₂, h₃, h₄, h₅]

theorem quiet_fairRun (m : Nat) : Quiet (fairRun (5 + m)) := by
  induction m with
  | zero => exact ⟨rfl, rfl, rfl, rfl, rfl⟩
  | succ m ih => exact quiet_stepOf _ _ ih

/-- An infinite run with no reset that meets the fairness assumptions, the stronger one too. -/
theorem test_witness_FairCommandsEnd :
    RunUnder fairTurns fairRun ∧ Inv (fairRun 0) ∧
      (busOwner (fairRun 0) = some .thisBlock → holdsBus (fairRun 0) = true) ∧
      (∀ m, 0 ≤ m → (fairTurns m).rst = false) ∧ CollaboratorWeaklyFair fairTurns fairRun ∧
      ForeignUsersFinish fairRun ∧ SequencerWeaklyFair fairTurns fairRun ∧
      CollaboratorStronglyFair fairTurns fairRun := by
  refine ⟨fun n => fairRun_step n _, by decide, by decide, ?_, ?_, ?_, ?_, ?_⟩
  · intro m _
    unfold fairTurns
    split <;> rfl
  · intro who n h
    obtain ⟨h₁, h₂, -, h₄, -⟩ := quiet_fairRun n
    have h := h (5 + n) (by omega)
    cases who <;> simp [acknowledgeEnabledFor, acknowledgeEnabled, outstanding, spiReq, h₂, h₄] at h
  · intro n _ _ _
    exact ⟨5 + n, by omega, (quiet_fairRun n).2.2.2.2⟩
  · intro n h
    obtain ⟨h₁, -, h₃, -⟩ := quiet_fairRun n
    have h := h (5 + n) (by omega)
    simp [sequencerEnabled, h₁, h₃] at h
  · intro n h
    obtain ⟨k, hk, h⟩ := h (5 + n) (by omega)
    obtain ⟨h₁, h₂, -⟩ := quiet_fairRun (k - 5)
    rw [show 5 + (k - 5) = k by omega] at h₂
    simp [acknowledgeEnabled, outstanding, spiReq, h₂] at h

end Sys2Proof.Tests
end

section
/-! PROOFS. The family 10_state.md: the status port, and the chip-select line over every step. -/

namespace Sys2Proof.Proofs

open Sys2Proof.Machine Sys2Proof.Safety

/-- The bits of the status port (10_state.md R27). -/
theorem getLsbD_status (s : State) (i : Nat) :
    (status s).getLsbD i =
      if i = 0 then busy s else if i = 1 then s.initialized else (faultCode s.fault).getLsbD (i - 2) := by
  have h₁ := BitVec.getLsbD_append (x := faultCode s.fault ++ BitVec.ofBool s.initialized)
    (y := BitVec.ofBool (busy s)) (i := i)
  have h₂ := BitVec.getLsbD_append (x := faultCode s.fault) (y := BitVec.ofBool s.initialized) (i := i - 1)
  refine h₁.trans ?_
  rw [h₂]
  rcases i with _ | _ | i <;> simp

/-- Settles O13: the two flags are bits 0 and 1, and bit `2 + i` of the port is bit `i` of the fault code. -/
theorem statusPort : Obligations.StatusPort := by
  intro s
  refine ⟨getLsbD_status s 0, getLsbD_status s 1, ?_⟩
  apply BitVec.eq_of_getLsbD_eq
  intro i hi
  simp [hi, getLsbD_status, show 2 + i ≠ 1 by omega]

/-- The entries one step appends to the trace of a block whose chip-select line is `line`: at most one, except where
a WRITE is accepted before the first BEGIN has completed (60_exceptions.md R110) and where a WRITE ends
(41_write.md R83). -/
inductive StepEntries (line : LineId) : List Entry → Prop where
  | nothing : StepEntries line []
  | single {e : Entry} : wellTagged line e → StepEntries line [e]
  | acceptAndFault (w : CmdWord) :
    StepEntries line [⟨.sequencer, .cmdAccept w⟩, ⟨.sequencer, .fault .writeBeforeBegin⟩]
  | csHighAndDone : StepEntries line [⟨.sequencer, .pinWrite line true⟩, ⟨.sequencer, .cmdDone⟩]

theorem StepEntries.wellTagged_of_mem {line : LineId} {new : List Entry} (h : StepEntries line new) :
    ∀ e ∈ new, wellTagged line e := by
  cases h with
  | nothing => simp
  | single he => simpa using he
  | acceptAndFault w => simp [wellTagged]
  | csHighAndDone => simp [wellTagged]

/-- From `s` to `t` the chip-select line stays, and the trace grows by the entries of one step. -/
def Emits (s t : State) : Prop :=
  t.csLine = s.csLine ∧ ∃ new, t.trace = s.trace ++ new ∧ StepEntries s.csLine new

section
variable {s t : State}

theorem Emits.of_frame (hl : t.csLine = s.csLine) (ht : t.trace = s.trace) : Emits s t :=
  ⟨hl, [], by simp [ht], .nothing⟩

theorem Emits.of_single {e : Entry} (hl : t.csLine = s.csLine) (ht : t.trace = s.trace ++ [e])
    (he : wellTagged s.csLine e) : Emits s t :=
  ⟨hl, [e], ht, .single he⟩

@[simp] theorem performOp_csLine (who : Requester) (r : Request) (s : State) :
    (performOp who r s).csLine = s.csLine := by
  rw [performOp_frame]

@[simp] theorem performOp_trace (who : Requester) (r : Request) (s : State) :
    (performOp who r s).trace = s.trace := by
  rw [performOp_frame]

/-- An SPI phase issues its request or waits; otherwise it emits what its completion emits. -/
theorem emits_spiPhase (r : Request) {complete : State → State} (next : Phase) (s : State)
    (hc : Emits s (complete (setReq .none s))) : Emits s (spiPhase r complete next s) := by
  rcases spiPhase_cases r complete next s with ⟨-, h⟩ | ⟨-, h⟩ | ⟨-, h⟩ <;> rw [h]
  · exact .of_single rfl rfl (.inl rfl)
  · exact .of_frame rfl rfl
  · exact hc

theorem emits_acceptWrite (ch buf g1x act : Bool) (value : BitVec 16) (s : State) :
    Emits s (acceptWrite ch buf g1x act value s) := by
  unfold acceptWrite
  split
  · exact .of_single rfl rfl rfl
  · exact ⟨rfl, _, List.append_assoc .., .acceptAndFault _⟩

theorem emits_sequencerNext (s : State) : Emits s (sequencerNext s) := by
  unfold sequencerNext
  cases s.phase with
  | idle =>
    dsimp only
    split
    · split
      · exact emits_acceptWrite ..
      · exact .of_single rfl rfl rfl
      · exact .of_frame rfl rfl
    · exact .of_frame rfl rfl
  | bPinMode | bSetHigh | wCsLow => exact .of_single rfl rfl ⟨rfl, rfl⟩
  | bSpiInit => exact emits_spiPhase _ _ _ (.of_single rfl rfl rfl)
  | wOpen | wXfer0 | wXfer1 | wClose => exact emits_spiPhase _ _ _ (.of_frame rfl rfl)
  | wCsHigh => exact ⟨rfl, _, List.append_assoc .., .csHighAndDone⟩
  | fault => exact .of_frame rfl rfl

theorem emits_answer (r : Request) (s : State) : Emits s (answer r s) := by
  rcases answer_cases r s with ⟨-, -, h⟩ | ⟨-, h⟩ <;> rw [h]
  · exact .of_single (e := ⟨.spiCollaborator, .spiAck .thisBlock (requestOp r)⟩) (by simp) (by simp) rfl
  · exact .of_frame rfl rfl

theorem emits_acknowledgeNext (s : State) : Emits s (acknowledgeNext s) := by
  unfold acknowledgeNext
  split
  · exact emits_answer ..
  · exact .of_frame rfl rfl

theorem emits_answerForeign (user : Nat) (s : State) : Emits s (answerForeign user s) := by
  rcases answerForeign_cases user s with ⟨r, -, -, h⟩ | h <;> rw [h]
  · exact .of_single (e := ⟨.spiCollaborator, .spiAck (.foreign user) (requestOp r)⟩) (by simp) (by simp) rfl
  · exact .of_frame rfl rfl

theorem emits_issueForeign (user : Nat) (r : Request) (s : State) : Emits s (issueForeign user r s) := by
  rcases issueForeign_cases user r s with ⟨-, h⟩ | ⟨-, h⟩ <;> rw [h]
  · exact .of_single rfl rfl (.inr ⟨user, rfl⟩)
  · exact .of_frame rfl rfl

theorem emits_resetForeign (user : Nat) (s : State) : Emits s (resetForeign user s) :=
  .of_single rfl rfl (.inr ⟨user, rfl⟩)

theorem emits_resetStep (s : State) : Emits s (resetStep s) :=
  .of_single rfl rfl (.inl rfl)

theorem emits_takeTurn : Emits (takeTurn s) t ↔ Emits s t := Iff.rfl

/-- Every step of every agent keeps `CS_LINE` and emits the entries of one step. -/
theorem step_emits (h : step s = .next t) : Emits s t := by
  rw [← emits_takeTurn]
  rcases step_cases h with ⟨-, rfl⟩ | ⟨-, ⟨-, rfl⟩ | ⟨-, rfl⟩ | ⟨cmd, -, rfl⟩ | ⟨-, rfl⟩ | ⟨user, -, rfl⟩ |
    ⟨user, r, -, rfl⟩ | ⟨user, -, rfl⟩⟩
  · exact emits_resetStep _
  · exact emits_sequencerNext _
  · exact emits_acknowledgeNext _
  · exact .of_frame rfl rfl
  · exact .of_frame rfl rfl
  · exact emits_answerForeign ..
  · exact emits_issueForeign ..
  · exact emits_resetForeign ..

end

/-- A well-tagged pin event is the sequencer's and names the line. -/
theorem pinEvent_of_wellTagged {line : LineId} {e : Entry} (h : wellTagged line e) :
    (∀ l, e.event = .pinOutput l → l = line ∧ e.agent = .sequencer) ∧
      (∀ l v, e.event = .pinWrite l v → l = line ∧ e.agent = .sequencer) := by
  constructor
  · intro l he
    rw [wellTagged, he] at h
    exact h.symm
  · intro l v he
    rw [wellTagged, he] at h
    exact h.symm

/-- Settles O46: each agent's move keeps the line, and each entry it emits is well tagged. -/
theorem csLineConstant : Obligations.CsLineConstant := by
  refine ⟨fun _ => rfl, fun s t h => ?_⟩
  obtain ⟨hline, new, htrace, hnew⟩ := step_emits h
  exact ⟨hline, new, htrace, fun e he => pinEvent_of_wellTagged (hnew.wellTagged_of_mem e he)⟩

end Sys2Proof.Proofs
end

section
/-! PROOFS. The family 30_encoding.md: the command's row, the packed configuration, and the short forms of WRITE. -/

namespace Sys2Proof.Proofs

open Sys2Proof.Machine

/-- The BEGIN row accepts the words with `cmd[20]` clear (30_encoding.md R52). -/
theorem rowMatches_rowBegin (w : CmdWord) : rowMatches rowBegin w = !w.getLsbD 20 := by
  simp only [rowMatches, rowBegin, Laws.Row.and_opMask]
  cases w.getLsbD 20 <;> rfl

/-- The WRITE row accepts the words with `cmd[20]` set (30_encoding.md R52). -/
theorem rowMatches_rowWrite (w : CmdWord) : rowMatches rowWrite w = w.getLsbD 20 := by
  simp only [rowMatches, rowWrite, Laws.Row.and_opMask]
  cases w.getLsbD 20 <;> rfl

/-- Settles O2: each row's test is a test of bit 20, and the decoder asks the BEGIN row. -/
theorem commandSelectedByOpBit : Obligations.CommandSelectedByOpBit := by
  intro w
  simp only [decodeCommand, rowMatches_rowBegin, rowMatches_rowWrite]
  constructor <;> intro h
  · simp only [h, Bool.not_false, if_true, and_self]
  · simp only [h, Bool.not_true, Bool.false_eq_true, if_false, and_self]

/-- Settles O5: the fields are those that `unpackCfg` reads back. -/
theorem cfgPacking : Obligations.CfgPacking := by
  refine ⟨fun c => ?_, rfl⟩
  have h := unpackCfg_packCfg c
  exact ⟨congrArg BusCfg.clockHz h, congrArg BusCfg.bitOrder h, congrArg BusCfg.mode h⟩

/-- The word of a WRITE whose flags but `ch` have their short-form defaults (30_encoding.md R60). -/
theorem encodeWrite_shortForm (ch : Bool) (v : BitVec 16) :
    encodeWrite ch false true true v =
      0x130000#21 ||| ((BitVec.ofBool ch).setWidth 21 <<< 19) ||| v.setWidth 21 := by
  apply BitVec.eq_of_getLsbD_eq
  intro i hi
  have hbase : (0x130000#21).getLsbD i = decide (i = 16 ∨ i = 17 ∨ i = 20) := by
    interval_cases i <;> rfl
  simp only [BitVec.getLsbD_or, BitVec.getLsbD_shiftLeft, BitVec.getLsbD_setWidth, getLsbD_encodeWrite,
    getLsbD_ofBool, hbase]
  by_cases hv : i < 16
  · simp [hv, hi, show ¬ (i = 16 ∨ i = 17 ∨ i = 20) by omega, show i < 19 by omega]
  · obtain rfl | rfl | rfl | rfl | rfl : i = 16 ∨ i = 17 ∨ i = 18 ∨ i = 19 ∨ i = 20 := by omega
    all_goals simp

/-- What the full form assembles to when every operand is accepted. -/
theorem assembleFull_of_ok {ch buf g1x act value : List Char} {c b g a : Bool} {v : BitVec 16}
    (hc : readFlag ch = .ok c) (hb : readFlag buf = .ok b) (hg : readFlag g1x = .ok g) (ha : readFlag act = .ok a)
    (hv : readValue value = .ok v) : assembleFull ch buf g1x act value = .ok (.writeCmd c b g a v) := by
  simp only [assembleFull, hc, hb, hg, ha, hv]

theorem readFlag_zero : readFlag ['0'] = .ok false := rfl

theorem readFlag_one : readFlag ['1'] = .ok true := rfl

/-- A WRITE with accepted channel and value, the other flags left to their defaults. -/
theorem assembleWrite_pair_of_ok {ch value : List Char} {c : Bool} {v : BitVec 16} (hc : readFlag ch = .ok c)
    (hv : readValue value = .ok v) : assembleWrite [ch, value] = .ok (.writeCmd c false true true v) :=
  assembleFull_of_ok hc readFlag_zero readFlag_one readFlag_one hv

/-- `WRITE value` is `WRITE 0, value` (30_encoding.md R59, R60). -/
theorem assembleWrite_single (value : List Char) : assembleWrite [value] = assembleWrite [['0'], value] := rfl

/-- Settles O7: the one-operand form is the two-operand form with channel 0. -/
theorem writeValueForm : Obligations.WriteValueForm := by
  refine ⟨fun _ => rfl, fun v => ?_, fun value v hv => ?_⟩
  · simpa using encodeWrite_shortForm false v
  · rw [assembleWrite_single]
    exact assembleWrite_pair_of_ok readFlag_zero hv

theorem assembleWrite_wrongCount (ops : List (List Char)) (h₁ : ops.length ≠ 1) (h₂ : ops.length ≠ 2)
    (h₅ : ops.length ≠ 5) : assembleWrite ops = .error .wrongOperandCount := by
  unfold assembleWrite
  split
  · exact absurd rfl h₁
  · exact absurd rfl h₂
  · exact absurd rfl h₅
  · rfl

/-- Settles O8: the assembler's cases are the three operand counts, and the short form's word has bit 19 = `ch`. -/
theorem writeChannelValueForm : Obligations.WriteChannelValueForm :=
  ⟨fun _ _ => rfl, encodeWrite_shortForm, fun _ _ _ _ hc hv => assembleWrite_pair_of_ok hc hv,
    assembleWrite_wrongCount⟩

end Sys2Proof.Proofs
end

section
/-! PROOFS. The family 40_begin.md: BEGIN's micro-steps phase by phase, and construction. -/

namespace Sys2Proof.Proofs

open Sys2Proof.Machine Sys2Proof.Safety

section
variable {s : State}

theorem exec_beginCmd_idle (ignored : BitVec 20) (h : s.phase = .idle) :
    exec (.beginCmd ignored) s =
      .next (setPhase .bPinMode (emit .sequencer (.cmdAccept (encodeBegin ignored)) s)) := by
  simp only [exec, execBegin, h]

theorem exec_beginCmd_bPinMode (ignored : BitVec 20) (h : s.phase = .bPinMode) :
    exec (.beginCmd ignored) s = .next (setPhase .bSetHigh (configureOutput s)) := by
  simp only [exec, execBegin, h]

theorem exec_beginCmd_bSetHigh (ignored : BitVec 20) (h : s.phase = .bSetHigh) :
    exec (.beginCmd ignored) s = .next (setPhase .bSpiInit (driveCs true s)) := by
  simp only [exec, execBegin, h]

theorem exec_beginCmd_bSpiInit (ignored : BitVec 20) (h : s.phase = .bSpiInit) :
    exec (.beginCmd ignored) s = .next (spiPhase .spiInit beginComplete .idle s) := by
  simp only [exec, execBegin, h]

theorem spiPhase_of_none (r : Request) (complete : State → State) (next : Phase) (h : s.req = .none) :
    spiPhase r complete next s = emit .sequencer (.spiReq r) (setReq .wait s) := by
  simp only [spiPhase, h]

theorem spiPhase_of_wait (r : Request) (complete : State → State) (next : Phase) (h : s.req = .wait) :
    spiPhase r complete next s = s := by
  simp only [spiPhase, h]

theorem spiPhase_of_ack (r : Request) (complete : State → State) (next : Phase) (h : s.req = .ack) :
    spiPhase r complete next s = setPhase next (complete (setReq .none s)) := by
  simp only [spiPhase, h]

/-- In IDLE the sequencer's step is the micro-step of the command the host presents (10_state.md R26). -/
theorem step_eq_exec_presented (hp : s.phase = .idle) (hv : s.cmdValid = true) (ht : turnOf s = sequencerTurn) :
    step s = exec (decodeCommand s.cmd) (takeTurn s) := by
  simp only [step, ht, sequencerTurn, fetch, sequencerInstr, takeTurn_phase, takeTurn_cmdValid, takeTurn_cmd, hp, hv,
    if_true, Bool.false_eq_true, if_false]

end

/-- With `op` = 0 a word is the BEGIN of its 20 ignored bits (30_encoding.md R51). -/
theorem encodeBegin_extractLsb' (w : CmdWord) (h : w.getLsbD 20 = false) : encodeBegin (w.extractLsb' 0 20) = w := by
  apply BitVec.eq_of_getLsbD_eq
  intro i hi
  rw [getLsbD_encodeBegin, BitVec.getLsbD_extractLsb']
  obtain h' | rfl : i < 20 ∨ i = 20 := by omega
  · simp [h']
  · rw [h]; rfl

/-- Settles O16: the presented word is fetched as the BEGIN of its ignored bits, whose encoding is the word itself. -/
theorem beginAccepted : Obligations.BeginAccepted := by
  refine ⟨fun s ignored hp => exec_beginCmd_idle ignored hp, fun s hp hv hop ht => ?_⟩
  obtain ⟨-, -, hdec⟩ := (commandSelectedByOpBit s.cmd).1 hop
  rw [step_eq_exec_presented hp hv ht, hdec, exec_beginCmd_idle (s := takeTurn s) _ hp, encodeBegin_extractLsb' _ hop]
  rfl

/-- Settles O17: the micro-step is "configure as output" and the phase write. -/
theorem beginConfiguresOutput : Obligations.BeginConfiguresOutput := by
  intro s ignored hp
  rw [exec_beginCmd_bPinMode ignored hp, configureOutput_eq]
  rfl

/-- Settles O18: the micro-step is "set high" and the phase write. -/
theorem beginDrivesHigh : Obligations.BeginDrivesHigh := by
  intro s ignored hp
  rw [exec_beginCmd_bSetHigh ignored hp, driveCs_eq]
  rfl

/-- Settles O19: the three-way step of INIT, whose completion writes `CFG_DAC` and `initialized`. -/
theorem beginInitialisesBus : Obligations.BeginInitialisesBus := by
  intro s ignored hp
  rw [exec_beginCmd_bSpiInit ignored hp]
  refine ⟨fun hr => ?_, fun hr => ?_, fun hr => ?_⟩
  · rw [spiPhase_of_none _ _ _ hr]; rfl
  · rw [spiPhase_of_wait _ _ _ hr]
  · rw [spiPhase_of_ack _ _ _ hr]; rfl

theorem status_eq_zero {s : State} (hp : s.phase = .idle) (hi : s.initialized = false) (hf : s.fault = .none) :
    status s = 0#4 := by
  simp only [status, busy, hp, hi, hf]
  decide

/-- Settles O45: each named value is the constructor's own, whatever the line, and `State.reset` has line 0. -/
theorem constructionIsReset : Obligations.ConstructionIsReset :=
  ⟨fun _ => ⟨rfl, rfl, rfl, rfl, rfl, rfl, rfl, status_eq_zero rfl rfl rfl, rfl⟩, 0, rfl⟩

end Sys2Proof.Proofs
end

section
/-! PROOFS. The family 41_write.md: the packed frame, WRITE's micro-steps phase by phase, and the sequence of phases. -/

namespace Sys2Proof.Proofs

open Sys2Proof.Machine Sys2Proof.Safety

/-- The flags shifted to bits 3 to 0 (41_write.md R73). -/
theorem configBits_eq_or (ch buf g1x act : Bool) :
    configBits ch buf g1x act =
      ((BitVec.ofBool ch).setWidth 4 <<< 3) ||| ((BitVec.ofBool buf).setWidth 4 <<< 2) |||
        ((BitVec.ofBool g1x).setWidth 4 <<< 1) ||| (BitVec.ofBool act).setWidth 4 := by
  rw [← BitVec.setWidth_eq (configBits ch buf g1x act)]
  exact BitVec.setWidth_append_append_append_eq_shiftLeft_setWidth_or

/-- The four bits from bit `n` on are a shift by `n` and a mask. -/
theorem setWidth_extractLsb'_four (x : BitVec 16) (n : Nat) :
    (x.extractLsb' n 4).setWidth 8 = (x >>> n).setWidth 8 &&& 0x0F#8 := by
  apply BitVec.eq_of_getLsbD_eq
  intro i hi
  have hmask : (0x0F#8).getLsbD i = decide (i < 4) := by interval_cases i <;> rfl
  simp only [BitVec.getLsbD_setWidth, BitVec.getLsbD_extractLsb', BitVec.getLsbD_and, BitVec.getLsbD_ushiftRight, hmask,
    hi, decide_true, Bool.true_and, Bool.and_comm]

theorem firstByte_eq_or (ch buf g1x act : Bool) (value : BitVec 16) :
    firstByte ch buf g1x act value =
      ((configBits ch buf g1x act).setWidth 8 <<< 4) ||| ((value >>> 8).setWidth 8 &&& 0x0F#8) := by
  rw [← setWidth_extractLsb'_four, ← BitVec.setWidth_eq (firstByte ch buf g1x act value)]
  exact BitVec.setWidth_append_eq_shiftLeft_setWidth_or

theorem secondByte_eq_and (value : BitVec 16) : secondByte value = (value &&& 0xFF#16).setWidth 8 := by
  have hmask : (0xFF#16).setWidth 8 = BitVec.allOnes 8 := by decide
  rw [BitVec.setWidth_and, hmask, BitVec.and_allOnes]
  rfl

@[simp] theorem byte0_pack (ch buf g1x act : Bool) (value : BitVec 16) :
    byte0 (pack ch buf g1x act value) = firstByte ch buf g1x act value :=
  BitVec.extractLsb'_append_eq_left

@[simp] theorem byte1_pack (ch buf g1x act : Bool) (value : BitVec 16) :
    byte1 (pack ch buf g1x act value) = secondByte value :=
  BitVec.extractLsb'_append_eq_right

/-- Settles O10: the frame's bytes are the packed ones, each the concatenation that the source writes with a shift. -/
theorem packFormula : Obligations.PackFormula := by
  intro ch buf g1x act value
  rw [byte0_pack, byte1_pack]
  exact ⟨configBits_eq_or .., firstByte_eq_or .., secondByte_eq_and _, rfl⟩

section
variable {s : State} (ch buf g1x act : Bool) (value : BitVec 16)

theorem exec_writeCmd_wCsLow (h : s.phase = .wCsLow) :
    exec (.writeCmd ch buf g1x act value) s = .next (setPhase .wOpen (driveCs false s)) := by
  simp only [exec, execWrite, h]

/-- In an SPI phase of WRITE the micro-step is the three-way step, and no operand is read (41_write.md R77, R79 to
R82). -/
theorem exec_writeCmd_spiPhase {r : Request} {next : Phase}
    (h : (s.phase = .wOpen ∧ r = .spiBegin s.cfg ∧ next = .wXfer0) ∨
      (s.phase = .wXfer0 ∧ r = .spiXfer (byte0 s.frame) ∧ next = .wXfer1) ∨
      (s.phase = .wXfer1 ∧ r = .spiXfer (byte1 s.frame) ∧ next = .wClose) ∨
      (s.phase = .wClose ∧ r = .spiEnd ∧ next = .wCsHigh)) :
    exec (.writeCmd ch buf g1x act value) s = .next (spiPhase r id next s) := by
  rcases h with ⟨hp, rfl, rfl⟩ | ⟨hp, rfl, rfl⟩ | ⟨hp, rfl, rfl⟩ | ⟨hp, rfl, rfl⟩ <;>
    simp only [exec, execWrite, hp]

theorem exec_writeCmd_wCsHigh (h : s.phase = .wCsHigh) :
    exec (.writeCmd ch buf g1x act value) s =
      .next (setPhase .idle (emit .sequencer .cmdDone (driveCs true s))) := by
  simp only [exec, execWrite, h]

end

/-- Settles O25: the micro-step is "set low" and the phase write. -/
theorem writeAssertsCs : Obligations.WriteAssertsCs := by
  intro s ch buf g1x act value hp
  rw [exec_writeCmd_wCsLow ch buf g1x act value hp, driveCs_eq]
  rfl

/-- Settles O26: each of the four phases is the three-way step of its request, with nothing to complete. -/
theorem writeSpiPhases : Obligations.WriteSpiPhases := by
  intro s ch buf g1x act value r next h
  rw [exec_writeCmd_spiPhase ch buf g1x act value h]
  refine ⟨fun hr => ?_, fun hr => ?_, fun hr => ?_⟩
  · rw [spiPhase_of_none _ _ _ hr]; rfl
  · rw [spiPhase_of_wait _ _ _ hr]
  · rw [spiPhase_of_ack _ _ _ hr]; rfl

/-- Settles O27: the micro-step is "set high", the completion event and the phase write. -/
theorem writeDeassertsCs : Obligations.WriteDeassertsCs := by
  intro s ch buf g1x act value hp
  rw [exec_writeCmd_wCsHigh ch buf g1x act value hp, driveCs_eq]
  simp [emit, setPhase]

/-- From `s` to `t` the phase stays or moves on in sequence (41_write.md R87). -/
def FollowsSequence (s t : State) : Prop :=
  t.phase = s.phase ∨ t.phase ∈ nextPhases s.phase

section
variable {s t : State}

@[simp] theorem performOp_phase (who : Requester) (r : Request) (s : State) :
    (performOp who r s).phase = s.phase := by
  rw [performOp_frame]

@[simp] theorem answer_phase (r : Request) (s : State) : (answer r s).phase = s.phase := by
  rw [answer_frame]

@[simp] theorem acknowledgeNext_phase (s : State) : (acknowledgeNext s).phase = s.phase := by
  unfold acknowledgeNext
  split
  · exact answer_phase ..
  · rfl

@[simp] theorem answerForeign_phase (user : Nat) (s : State) : (answerForeign user s).phase = s.phase := by
  rcases answerForeign_cases user s with ⟨r, -, -, h⟩ | h <;> simp [h]

@[simp] theorem issueForeign_phase (user : Nat) (r : Request) (s : State) :
    (issueForeign user r s).phase = s.phase := by
  rcases issueForeign_cases user r s with ⟨-, h⟩ | ⟨-, h⟩ <;> simp [h]

@[simp] theorem resetForeign_phase (user : Nat) (s : State) : (resetForeign user s).phase = s.phase := rfl

/-- An SPI phase leads to the phase it names, or stays. -/
theorem spiPhase_phase (r : Request) (complete : State → State) (next : Phase) (s : State) :
    (spiPhase r complete next s).phase = s.phase ∨ (spiPhase r complete next s).phase = next := by
  rcases spiPhase_cases r complete next s with ⟨-, h⟩ | ⟨-, h⟩ | ⟨-, h⟩ <;> simp [h]

theorem followsSequence_spiPhase (r : Request) (complete : State → State) {next : Phase}
    (h : next ∈ nextPhases s.phase) : FollowsSequence s (spiPhase r complete next s) :=
  (spiPhase_phase r complete next s).imp_right fun hn => by rwa [hn]

/-- A WRITE is accepted into its first phase or into FAULT (41_write.md R77). -/
theorem acceptWrite_phase (ch buf g1x act : Bool) (value : BitVec 16) (s : State) :
    (acceptWrite ch buf g1x act value s).phase = if s.initialized then .wCsLow else .fault := by
  unfold acceptWrite
  split <;> rfl

theorem followsSequence_acceptWrite (ch buf g1x act : Bool) (value : BitVec 16) (hp : s.phase = .idle) :
    FollowsSequence s (acceptWrite ch buf g1x act value s) := by
  right
  rw [acceptWrite_phase, hp]
  split <;> simp [nextPhases]

/-- The micro-step of each phase leaves it or takes the next in sequence. -/
theorem followsSequence_sequencerNext (s : State) : FollowsSequence s (sequencerNext s) := by
  unfold sequencerNext
  cases hp : s.phase with
  | idle =>
    dsimp only
    split
    · split
      · exact followsSequence_acceptWrite _ _ _ _ _ hp
      · simp [FollowsSequence, nextPhases, hp]
      · exact .inl rfl
    · exact .inl rfl
  | bPinMode | bSetHigh | wCsLow | wCsHigh => simp [FollowsSequence, nextPhases, hp]
  | bSpiInit | wOpen | wXfer0 | wXfer1 | wClose => exact followsSequence_spiPhase _ _ (by simp [nextPhases, hp])
  | fault => exact .inl rfl

end

/-- Settles O53: only the sequencer's micro-step and a reset step write the phase. -/
theorem phaseFollowsSequence : Obligations.PhaseFollowsSequence := by
  intro s t h
  rcases step_cases h with ⟨hr, rfl⟩ | ⟨hr, hm⟩
  · exact ⟨fun _ => rfl, by simp [hr]⟩
  · refine ⟨by simp [hr], fun _ => ?_⟩
    rcases hm with ⟨-, rfl⟩ | ⟨-, rfl⟩ | ⟨cmd, -, rfl⟩ | ⟨-, rfl⟩ | ⟨user, -, rfl⟩ | ⟨user, r, -, rfl⟩ |
      ⟨user, -, rfl⟩
    · exact followsSequence_sequencerNext (takeTurn s)
    · exact .inl (acknowledgeNext_phase _)
    · exact .inl rfl
    · exact .inl rfl
    · exact .inl (answerForeign_phase ..)
    · exact .inl (issueForeign_phase ..)
    · exact .inl (resetForeign_phase ..)

end Sys2Proof.Proofs
end

section
/-! PROOFS. The family 42_spi_bus.md: the collaborator's acknowledgements, the exclusion of foreign users, and the
received byte. -/

namespace Sys2Proof.Proofs

open Sys2Proof.Machine Sys2Proof.Safety

/-- A granted request is performed, and its acknowledgement noted (42_spi_bus.md R96). -/
theorem answer_of_granted {s : State} {r : Request} (ho : outstanding s = some r)
    (hg : grantable .thisBlock r s = true) :
    answer r s = emit .spiCollaborator (.spiAck .thisBlock (requestOp r)) (setReq .ack (performOp .thisBlock r s)) :=
  if_pos ⟨ho, hg⟩

/-- Settles O32: INIT is grantable whoever owns the bus, and performs nothing. -/
theorem spiInitAcknowledged : Obligations.SpiInitAcknowledged := by
  intro s ho
  exact congrArg Host.Outcome.next (answer_of_granted ho rfl)

/-- Settles O35: END is grantable to the owner, and a bus without owner makes every foreign BEGIN grantable. -/
theorem spiEndReleases : Obligations.SpiEndReleases := by
  intro s ho hb
  have hgrant : grantable .thisBlock .spiEnd s = true := by simp [grantable, hb]
  exact ⟨_, congrArg Host.Outcome.next (answer_of_granted ho hgrant), rfl, fun _ _ _ => rfl⟩

section
variable {s t : State}

/-- From `s` to `t` the bus transaction stays, no request is acknowledged and no bit is clocked. -/
def LeavesBus (s t : State) : Prop :=
  t.bus = s.bus ∧ ∃ (new : List Entry) (items : List WireItem), t.trace = s.trace ++ new ∧ t.wire = s.wire ++ items ∧
    (∀ e ∈ new, ∀ who op, e.event ≠ .spiAck who op) ∧ ∀ who b, .bit who b ∉ items

theorem LeavesBus.of_frame (hb : t.bus = s.bus) (ht : t.trace = s.trace) (hw : t.wire = s.wire) : LeavesBus s t :=
  ⟨hb, [], [], by simp [ht], by simp [hw], by simp, by simp⟩

theorem LeavesBus.of_entry {e : Entry} (hb : t.bus = s.bus) (ht : t.trace = s.trace ++ [e]) (hw : t.wire = s.wire)
    (he : ∀ who op, e.event ≠ .spiAck who op) : LeavesBus s t :=
  ⟨hb, [e], [], ht, by simp [hw], by simpa using he, by simp⟩

/-- The pin primitives show on the CS line and in the trace (10_state.md R16). -/
theorem LeavesBus.of_pin {e : Entry} {level : Option Bool} (hb : t.bus = s.bus) (ht : t.trace = s.trace ++ [e])
    (hw : t.wire = s.wire ++ [.cs level]) (he : ∀ who op, e.event ≠ .spiAck who op) : LeavesBus s t :=
  ⟨hb, [e], [.cs level], ht, hw, by simpa using he, by simp⟩

theorem LeavesBus.trans {u : State} (h : LeavesBus s t) (h' : LeavesBus t u) : LeavesBus s u := by
  obtain ⟨hb, new, items, ht, hw, hnew, hitems⟩ := h
  obtain ⟨hb', new', items', ht', hw', hnew', hitems'⟩ := h'
  refine ⟨hb'.trans hb, new ++ new', items ++ items', by simp [ht, ht'], by simp [hw, hw'], ?_, ?_⟩
  · intro e he
    exact (List.mem_append.1 he).elim (hnew e) (hnew' e)
  · intro who b hm
    exact (List.mem_append.1 hm).elim (hitems who b) (hitems' who b)

theorem leavesBus_driveCs (level : Bool) (s : State) : LeavesBus s (driveCs level s) :=
  .of_pin rfl rfl rfl (by simp)

theorem leavesBus_acceptWrite (ch buf g1x act : Bool) (value : BitVec 16) (s : State) :
    LeavesBus s (acceptWrite ch buf g1x act value s) := by
  unfold acceptWrite
  have haccept : LeavesBus s (emit .sequencer (.cmdAccept (encodeWrite ch buf g1x act value)) s) :=
    .of_entry rfl rfl rfl (by simp)
  split
  · exact haccept.trans (.of_frame rfl rfl rfl)
  · exact haccept.trans (.of_entry rfl rfl rfl (by simp))

/-- An SPI phase only asks: beside its request it does to the bus what its completion does. -/
theorem leavesBus_spiPhase (r : Request) {complete : State → State} (next : Phase) (s : State)
    (hc : LeavesBus s (complete (setReq .none s))) : LeavesBus s (spiPhase r complete next s) := by
  rcases spiPhase_cases r complete next s with ⟨-, h⟩ | ⟨-, h⟩ | ⟨-, h⟩ <;> rw [h]
  · exact .of_entry rfl rfl rfl (by simp)
  · exact .of_frame rfl rfl rfl
  · exact hc

/-- The sequencer moves no bus line and acknowledges nothing: that is the collaborator's (42_spi_bus.md R96). -/
theorem leavesBus_sequencerNext (s : State) : LeavesBus s (sequencerNext s) := by
  unfold sequencerNext
  cases s.phase with
  | idle =>
    dsimp only
    split
    · split
      · exact leavesBus_acceptWrite ..
      · exact .of_entry rfl rfl rfl (by simp)
      · exact .of_frame rfl rfl rfl
    · exact .of_frame rfl rfl rfl
  | bPinMode => exact .of_pin rfl rfl rfl (by simp)
  | bSetHigh | wCsLow => exact leavesBus_driveCs ..
  | bSpiInit => exact leavesBus_spiPhase _ _ _ (.of_entry rfl rfl rfl (by simp))
  | wOpen | wXfer0 | wXfer1 | wClose => exact leavesBus_spiPhase _ _ _ (.of_frame rfl rfl rfl)
  | wCsHigh => exact (leavesBus_driveCs true s).trans (.of_entry rfl rfl rfl (by simp))
  | fault => exact .of_frame rfl rfl rfl

theorem leavesBus_issueForeign (user : Nat) (r : Request) (s : State) : LeavesBus s (issueForeign user r s) := by
  rcases issueForeign_cases user r s with ⟨-, h⟩ | ⟨-, h⟩ <;> rw [h]
  · exact .of_entry rfl rfl rfl (by simp)
  · exact .of_frame rfl rfl rfl

/-- A foreign reset leaves a bus that this block owns (42_spi_bus.md R101). -/
theorem leavesBus_resetForeign (user : Nat) (h : busOwner s = some .thisBlock) :
    LeavesBus s (resetForeign user s) := by
  rcases resetForeign_bus user s with ⟨ho, -⟩ | ⟨-, hb⟩
  · simp [h] at ho
  · exact .of_entry hb rfl rfl (by simp)

end

section
variable {s t : State}

/-- From `s` to `t` no foreign BEGIN or XFER is acknowledged, no foreign bit is clocked, and this block owns the bus
until its own END or a reset (42_spi_bus.md R101). -/
def ExcludesForeign (s t : State) : Prop :=
  ∃ (new : List Entry) (items : List WireItem),
    t.trace = s.trace ++ new ∧ t.wire = s.wire ++ items ∧
    (∀ e ∈ new, ∀ user, e.event ≠ .spiAck (.foreign user) .spiXfer ∧ e.event ≠ .spiAck (.foreign user) .spiBegin) ∧
    (∀ user b, .bit (.foreign user) b ∉ items) ∧
    (busOwner t = some .thisBlock ∨ ⟨.spiCollaborator, .spiAck .thisBlock .spiEnd⟩ ∈ new ∨ ⟨.reset, .reset⟩ ∈ new)

theorem LeavesBus.excludesForeign (h : LeavesBus s t) (ho : busOwner s = some .thisBlock) : ExcludesForeign s t := by
  obtain ⟨hb, new, items, ht, hw, hnew, hitems⟩ := h
  refine ⟨new, items, ht, hw, fun e he user => ⟨hnew e he _ _, hnew e he _ _⟩, fun user => hitems _, .inl ?_⟩
  rwa [busOwner, hb]

/-- An operation of this block clocks no foreign bit, and only END takes the bus from it (42_spi_bus.md R97 to R100). -/
theorem performOp_thisBlock_excludes (r : Request) (h : busOwner s = some .thisBlock) :
    (∃ items, (performOp .thisBlock r s).wire = s.wire ++ items ∧ ∀ user b, .bit (.foreign user) b ∉ items) ∧
      (busOwner (performOp .thisBlock r s) = some .thisBlock ∨ r = .spiEnd) := by
  cases r with
  | spiInit => exact ⟨⟨[], by simp [performOp], by simp⟩, .inl h⟩
  | spiBegin c => exact ⟨⟨[.config c], rfl, by simp⟩, .inl rfl⟩
  | spiXfer b => exact ⟨⟨_, rfl, by simp⟩, .inl h⟩
  | spiEnd => exact ⟨⟨[], by simp [performOp], by simp⟩, .inr rfl⟩

theorem excludesForeign_answer (r : Request) (h : busOwner s = some .thisBlock) : ExcludesForeign s (answer r s) := by
  rcases answer_cases r s with ⟨-, -, ha⟩ | ⟨-, ha⟩ <;> rw [ha]
  · obtain ⟨⟨items, hw, hitems⟩, hb⟩ := performOp_thisBlock_excludes r h
    refine ⟨[⟨.spiCollaborator, .spiAck .thisBlock (requestOp r)⟩], items, by simp, hw, by simp, hitems, ?_⟩
    exact hb.imp_right fun hr => .inl (by simp [hr, requestOp])
  · exact (LeavesBus.of_frame rfl rfl rfl).excludesForeign h

theorem excludesForeign_acknowledgeNext (h : busOwner s = some .thisBlock) :
    ExcludesForeign s (acknowledgeNext s) := by
  unfold acknowledgeNext
  split
  · exact excludesForeign_answer _ h
  · exact (LeavesBus.of_frame rfl rfl rfl).excludesForeign h

/-- Of a foreign user's requests only INIT is granted while this block owns the bus (42_spi_bus.md R97 to R101). -/
theorem eq_spiInit_of_grantable_foreign {user : Nat} {r : Request} (h : busOwner s = some .thisBlock)
    (hg : grantable (.foreign user) r s = true) : r = .spiInit := by
  cases r with
  | spiInit => rfl
  | spiBegin c =>
    have hnone : s.bus = none := by simpa [grantable] using hg
    simp [busOwner, hnone] at h
  | spiXfer b => simp [grantable, h] at hg
  | spiEnd => simp [grantable, h] at hg

theorem excludesForeign_answerForeign (user : Nat) (h : busOwner s = some .thisBlock) :
    ExcludesForeign s (answerForeign user s) := by
  rcases answerForeign_cases user s with ⟨r, -, hg, ha⟩ | ha <;> rw [ha]
  · obtain rfl := eq_spiInit_of_grantable_foreign h hg
    exact ⟨[⟨.spiCollaborator, .spiAck (.foreign user) .spiInit⟩], [], rfl, by simp [performOp], by simp, by simp,
      .inl h⟩
  · exact (LeavesBus.of_frame rfl rfl rfl).excludesForeign h

theorem excludesForeign_resetStep (s : State) : ExcludesForeign s (resetStep s) :=
  ⟨[⟨.reset, .reset⟩], [.cs none], rfl, rfl, by simp, by simp, .inr (.inr (by simp))⟩

theorem excludesForeign_takeTurn : ExcludesForeign (takeTurn s) t ↔ ExcludesForeign s t := Iff.rfl

end

/-- Settles O38: only the collaborator acknowledges or clocks, and while this block owns the bus a foreign user's only
grantable request is INIT. -/
theorem foreignExcluded : Obligations.ForeignExcluded := by
  intro s t ho h
  refine excludesForeign_takeTurn.1 ?_
  have ho' : busOwner (takeTurn s) = some .thisBlock := ho
  rcases step_cases h with ⟨-, rfl⟩ | ⟨-, ⟨-, rfl⟩ | ⟨-, rfl⟩ | ⟨cmd, -, rfl⟩ | ⟨-, rfl⟩ | ⟨user, -, rfl⟩ |
    ⟨user, r, -, rfl⟩ | ⟨user, -, rfl⟩⟩
  · exact excludesForeign_resetStep _
  · exact (leavesBus_sequencerNext _).excludesForeign ho'
  · exact excludesForeign_acknowledgeNext ho'
  · exact (LeavesBus.of_frame rfl rfl rfl).excludesForeign ho'
  · exact (LeavesBus.of_frame rfl rfl rfl).excludesForeign ho'
  · exact excludesForeign_answerForeign user ho'
  · exact (leavesBus_issueForeign user r _).excludesForeign ho'
  · exact (leavesBus_resetForeign user ho').excludesForeign ho'

/-- The state with this byte on `spi_rdata` (10_state.md R29). -/
def withRdata (b : Byte) (s : State) : State :=
  { s with spiRdata := b }

section
variable (b : Byte) (s : State)

@[simp] theorem withRdata_initialized : (withRdata b s).initialized = s.initialized := rfl
@[simp] theorem withRdata_phase : (withRdata b s).phase = s.phase := rfl
@[simp] theorem withRdata_req : (withRdata b s).req = s.req := rfl
@[simp] theorem withRdata_cmdValid : (withRdata b s).cmdValid = s.cmdValid := rfl
@[simp] theorem withRdata_cmd : (withRdata b s).cmd = s.cmd := rfl
@[simp] theorem withRdata_foreignReqs : (withRdata b s).foreignReqs = s.foreignReqs := rfl
@[simp] theorem outstanding_withRdata : outstanding (withRdata b s) = outstanding s := rfl
@[simp] theorem grantable_withRdata (who : Requester) (r : Request) :
    grantable who r (withRdata b s) = grantable who r s := rfl
@[simp] theorem turnOf_withRdata : turnOf (withRdata b s) = turnOf s := rfl
@[simp] theorem takeTurn_withRdata : takeTurn (withRdata b s) = withRdata b (takeTurn s) := rfl

end

/-- What `f` does to a state it does whatever byte is on `spi_rdata`, up to the byte it leaves there. -/
def IgnoresRdata (f : State → State) : Prop :=
  ∀ (s : State) (b : Byte), ∃ b', f (withRdata b s) = withRdata b' (f s)

theorem ignoresRdata_id : IgnoresRdata id := fun _ b => ⟨b, rfl⟩

theorem ignoresRdata_setPhase (p : Phase) : IgnoresRdata (setPhase p) := fun _ b => ⟨b, rfl⟩

theorem ignoresRdata_setReq (r : ReqState) : IgnoresRdata (setReq r) := fun _ b => ⟨b, rfl⟩

theorem ignoresRdata_emit (a : Agent) (e : Event) : IgnoresRdata (emit a e) := fun _ b => ⟨b, rfl⟩

theorem ignoresRdata_beginComplete : IgnoresRdata beginComplete := fun _ b => ⟨b, rfl⟩

theorem ignoresRdata_resetStep : IgnoresRdata resetStep := fun _ b => ⟨b, rfl⟩

theorem ignoresRdata_resetForeign (user : Nat) : IgnoresRdata (resetForeign user) := fun _ b => ⟨b, rfl⟩

theorem IgnoresRdata.comp {f g : State → State} (hf : IgnoresRdata f) (hg : IgnoresRdata g) :
    IgnoresRdata (f ∘ g) := by
  intro s b
  obtain ⟨b', hb'⟩ := hg s b
  obtain ⟨b'', hb''⟩ := hf (g s) b'
  exact ⟨b'', by rw [Function.comp, hb', hb'']; rfl⟩

theorem ignoresRdata_performOp (who : Requester) (r : Request) : IgnoresRdata (performOp who r) := by
  intro s b
  cases r with
  | spiInit | spiBegin _ | spiEnd => exact ⟨b, rfl⟩
  | spiXfer byte => exact ⟨if who = .thisBlock then Config.receivedByte s.tick else b, rfl⟩

section
variable {s t : State}

theorem ignoresRdata_spiPhase (r : Request) {complete : State → State} (next : Phase)
    (hc : IgnoresRdata complete) : IgnoresRdata (spiPhase r complete next) := by
  intro s b
  have hreq := withRdata_req b s
  cases h : s.req with
  | none =>
    rw [spiPhase_of_none _ _ _ h, spiPhase_of_none _ _ _ (hreq.trans h)]
    exact ⟨b, rfl⟩
  | wait =>
    rw [spiPhase_of_wait _ _ _ h, spiPhase_of_wait _ _ _ (hreq.trans h)]
    exact ⟨b, rfl⟩
  | ack =>
    rw [spiPhase_of_ack _ _ _ h, spiPhase_of_ack _ _ _ (hreq.trans h)]
    exact (ignoresRdata_setPhase next).comp (hc.comp (ignoresRdata_setReq .none)) s b

theorem ignoresRdata_acceptWrite (ch buf g1x act : Bool) (value : BitVec 16) :
    IgnoresRdata (acceptWrite ch buf g1x act value) := by
  intro s b
  unfold acceptWrite
  rw [withRdata_initialized]
  split <;> exact ⟨b, rfl⟩

theorem ignoresRdata_sequencerNext : IgnoresRdata sequencerNext := by
  intro s b
  unfold sequencerNext
  rw [withRdata_phase]
  cases s.phase with
  | idle =>
    dsimp only
    rw [withRdata_cmdValid, withRdata_cmd]
    split
    · split
      · exact ignoresRdata_acceptWrite _ _ _ _ _ s b
      · exact ⟨b, rfl⟩
      · exact ⟨b, rfl⟩
    · exact ⟨b, rfl⟩
  | bPinMode | bSetHigh | wCsLow | wCsHigh | fault => exact ⟨b, rfl⟩
  | bSpiInit => exact ignoresRdata_spiPhase _ _ ignoresRdata_beginComplete s b
  | wOpen | wXfer0 | wXfer1 | wClose => exact ignoresRdata_spiPhase _ _ ignoresRdata_id s b

theorem ignoresRdata_answer (r : Request) : IgnoresRdata (answer r) := by
  intro s b
  unfold answer
  rw [outstanding_withRdata, grantable_withRdata]
  split
  · exact (ignoresRdata_emit _ _).comp ((ignoresRdata_setReq .ack).comp (ignoresRdata_performOp _ r)) s b
  · exact ⟨b, rfl⟩

theorem ignoresRdata_acknowledgeNext : IgnoresRdata acknowledgeNext := by
  intro s b
  unfold acknowledgeNext
  rw [outstanding_withRdata]
  split
  · exact ignoresRdata_answer _ s b
  · exact ⟨b, rfl⟩

theorem ignoresRdata_issueForeign (user : Nat) (r : Request) : IgnoresRdata (issueForeign user r) := by
  intro s b
  unfold issueForeign
  rw [withRdata_foreignReqs]
  split <;> exact ⟨b, rfl⟩

theorem ignoresRdata_answerForeign (user : Nat) : IgnoresRdata (answerForeign user) := by
  intro s b
  unfold answerForeign
  rw [withRdata_foreignReqs]
  split
  · rw [grantable_withRdata]
    split
    · exact (ignoresRdata_emit _ _).comp (ignoresRdata_performOp _ _)
        { s with foreignReqs := s.foreignReqs.filter (fun p => p.1 != user) } b
    · exact ⟨b, rfl⟩
  · exact ⟨b, rfl⟩

/-- Another byte on `spi_rdata` changes a move's outcome in that byte at most. -/
theorem moveOutcome_withRdata (m : Move) (b : Byte) (h : moveOutcome m s = .next t) :
    ∃ b', moveOutcome m (withRdata b s) = .next (withRdata b' t) := by
  have of_ignores (f : State → State) (hf : IgnoresRdata f) (hm : ∀ u, moveOutcome m u = .next (f u)) :
      ∃ b', moveOutcome m (withRdata b s) = .next (withRdata b' t) := by
    obtain rfl := next_inj.1 ((hm s).symm.trans h)
    obtain ⟨b', hb'⟩ := hf s b
    exact ⟨b', by rw [hm, hb']⟩
  cases m with
  | sequencer => exact of_ignores _ ignoresRdata_sequencerNext moveOutcome_sequencer
  | acknowledge who =>
    cases who with
    | thisBlock => exact of_ignores _ ignoresRdata_acknowledgeNext moveOutcome_acknowledge
    | foreign user => exact of_ignores _ (ignoresRdata_answerForeign user) fun _ => rfl
  | present cmd =>
    exact of_ignores (fun u => { u with cmdValid := true, cmd := cmd }) (fun _ b => ⟨b, rfl⟩) fun _ => rfl
  | withdraw => exact of_ignores (fun u => { u with cmdValid := false }) (fun _ b => ⟨b, rfl⟩) fun _ => rfl
  | foreignRequest user r => exact of_ignores _ (ignoresRdata_issueForeign user r) fun _ => rfl
  | foreignReset user => exact of_ignores _ (ignoresRdata_resetForeign user) fun _ => rfl
  | breach => exact absurd h (by simp [moveOutcome, fetch, environment])

theorem step_withRdata (b : Byte) (h : step s = .next t) : ∃ b', step (withRdata b s) = .next (withRdata b' t) := by
  rw [step_eq] at h
  rw [step_eq, turnOf_withRdata, takeTurn_withRdata]
  split
  next hrst =>
    rw [if_pos hrst, next_inj] at h
    obtain ⟨b', hb'⟩ := ignoresRdata_resetStep (takeTurn s) b
    exact ⟨b', by rw [hb', h]⟩
  next hrst =>
    rw [if_neg hrst] at h
    exact moveOutcome_withRdata _ b h

end

/-- Settles O41: no port reads `spi_rdata`, and neither does any agent's move. -/
theorem receivedByteIgnored : Obligations.ReceivedByteIgnored :=
  ⟨fun _ _ => ⟨rfl, rfl, rfl, rfl, rfl, rfl⟩, fun _ _ b h => step_withRdata b h⟩

end Sys2Proof.Proofs
end

section
/-! PROOFS. The family 60_exceptions.md: raising the fault, FAULT held until a reset, and a block whose collaborator
stays silent. -/

namespace Sys2Proof.Proofs

open Sys2Proof.Machine Sys2Proof.Safety

section
variable {s : State} (ch buf g1x act : Bool) (value : BitVec 16)

theorem exec_writeCmd_idle (h : s.phase = .idle) :
    exec (.writeCmd ch buf g1x act value) s = .next (acceptWrite ch buf g1x act value s) := by
  simp only [exec, execWrite, h]

/-- Before a BEGIN has completed, a WRITE is accepted and raises the fault (41_write.md R77). -/
theorem acceptWrite_of_not_initialized (h : s.initialized = false) :
    acceptWrite ch buf g1x act value s =
      raiseFault .writeBeforeBegin (emit .sequencer (.cmdAccept (encodeWrite ch buf g1x act value)) s) := by
  simp only [acceptWrite, h, Bool.false_eq_true, if_false]

end

/-- Settles O24: the acceptance emits `CmdAccept` and raises the fault, and the fault writes what R110 names. -/
theorem writeBeforeBeginFaults : Obligations.WriteBeforeBeginFaults := by
  refine ⟨fun s code => raiseFault_eq code s, fun s ch buf g1x act value hp hi => ?_⟩
  rw [exec_writeCmd_idle _ _ _ _ _ hp, acceptWrite_of_not_initialized _ _ _ _ _ hi, raiseFault_eq]
  simp [emit]

/-- The values of the block's registers (10_state.md R12). -/
structure Registers where
  csLine      : LineId
  cfg         : BusCfg
  csOe        : Bool
  csOut       : Bool
  initialized : Bool
  fault       : FaultCode
  frame       : FrameWord
  phase       : Phase
  req         : ReqState

/-- The block's registers in a state, without its ports, its environment and the logs. -/
def registers (s : State) : Registers where
  csLine      := s.csLine
  cfg         := s.cfg
  csOe        := s.csOe
  csOut       := s.csOut
  initialized := s.initialized
  fault       := s.fault
  frame       := s.frame
  phase       := s.phase
  req         := s.req

section
variable {s t : State}

theorem registers_eq_iff :
    registers t = registers s ↔
      t.csLine = s.csLine ∧ t.cfg = s.cfg ∧ t.csOe = s.csOe ∧ t.csOut = s.csOut ∧ t.initialized = s.initialized ∧
        t.fault = s.fault ∧ t.frame = s.frame ∧ t.phase = s.phase ∧ t.req = s.req := by
  simp only [registers, Registers.mk.injEq]

@[simp] theorem registers_takeTurn (s : State) : registers (takeTurn s) = registers s := rfl

@[simp] theorem registers_answerForeign (user : Nat) (s : State) :
    registers (answerForeign user s) = registers s := by
  rcases answerForeign_cases user s with ⟨r, -, -, h⟩ | h <;> rw [h]
  rw [performOp_frame]
  rfl

@[simp] theorem registers_issueForeign (user : Nat) (r : Request) (s : State) :
    registers (issueForeign user r s) = registers s := by
  rcases issueForeign_cases user r s with ⟨-, h⟩ | ⟨-, h⟩ <;> rw [h]
  rfl

@[simp] theorem registers_resetForeign (user : Nat) (s : State) : registers (resetForeign user s) = registers s := rfl

/-- A sequencer with no step enabled changes nothing (10_state.md R24, R26; 60_exceptions.md R111). -/
theorem sequencerNext_of_not_enabled (h : sequencerEnabled s = false) : sequencerNext s = s := by
  unfold sequencerEnabled at h
  unfold sequencerNext
  cases hp : s.phase with
  | idle =>
    have hv : s.cmdValid = false := by simpa only [hp] using h
    simp only [hv, Bool.false_eq_true, if_false]
  | bPinMode | bSetHigh | wCsLow | wCsHigh => simp [hp] at h
  | bSpiInit | wOpen | wXfer0 | wXfer1 | wClose =>
    have hr : s.req = .wait := by simpa [hp] using h
    exact spiPhase_of_wait _ _ _ hr
  | fault => rfl

/-- An acknowledgement that is not enabled changes nothing (42_spi_bus.md R96). -/
theorem acknowledgeNext_of_not_enabled (h : acknowledgeEnabled s = false) : acknowledgeNext s = s := by
  unfold acknowledgeEnabled at h
  unfold acknowledgeNext
  cases ho : outstanding s with
  | none => rfl
  | some r =>
    have hg : grantable .thisBlock r s = false := by simpa only [ho] using h
    exact if_neg (by simp [hg])

/-- While neither a reset, nor its sequencer, nor an acknowledgement moves the block, its registers stay, whatever the
host and the foreign users do. -/
theorem step_keeps_registers (h : step s = .next t) (hrst : (turnOf s).rst = false)
    (hseq : sequencerEnabled s = false)
    (hack : ¬ ((turnOf s).move = .acknowledge .thisBlock ∧ acknowledgeEnabled s = true)) :
    registers t = registers s := by
  rw [← registers_takeTurn s]
  rcases step_cases h with ⟨hr, -⟩ | ⟨-, ⟨-, rfl⟩ | ⟨hm, rfl⟩ | ⟨cmd, -, rfl⟩ | ⟨-, rfl⟩ | ⟨user, -, rfl⟩ |
    ⟨user, r, -, rfl⟩ | ⟨user, -, rfl⟩⟩
  · simp [hrst] at hr
  · rw [sequencerNext_of_not_enabled (s := takeTurn s) hseq]
  · have hdisabled : acknowledgeEnabled s = false := by simpa [hm] using hack
    rw [acknowledgeNext_of_not_enabled (s := takeTurn s) hdisabled]
  · rfl
  · rfl
  · exact registers_answerForeign ..
  · exact registers_issueForeign ..
  · exact registers_resetForeign ..

/-- With `rst` asserted the step is the reset step (70_reset_and_hazards.md R123). -/
theorem eq_resetStep_of_rst (h : step s = .next t) (hrst : (turnOf s).rst = true) : t = resetStep (takeTurn s) := by
  rw [step_eq, if_pos hrst, next_inj] at h
  exact h.symm

theorem sequencerEnabled_of_fault (h : s.phase = .fault) : sequencerEnabled s = false := by
  simp only [sequencerEnabled, h]

theorem acknowledgeEnabled_of_fault (h : s.phase = .fault) : acknowledgeEnabled s = false := by
  simp [acknowledgeEnabled, outstanding, phaseRequest, h]

end

/-- Settles O42: in FAULT neither the sequencer nor an acknowledgement has a step, so that only a reset step writes a
register. -/
theorem faultHeldUntilReset : Obligations.FaultHeldUntilReset := by
  intro s t hp h
  have hseq := sequencerEnabled_of_fault hp
  obtain ⟨-, -, hstatus⟩ := statusPort s
  refine ⟨hseq, by simp [cmdReady, hp], by simp [busy, hp], hstatus, by simp [EndedWell, hp], fun hrst => ?_,
    fun hrst => ?_⟩
  · rw [eq_resetStep_of_rst h hrst]
    exact ⟨rfl, rfl⟩
  · have hkept : registers t = registers s :=
      step_keeps_registers h hrst hseq (by simp [acknowledgeEnabled_of_fault hp])
    obtain ⟨hline, hcfg, hoe, hout, hinit, hfault, hframe, hphase, -⟩ := registers_eq_iff.1 hkept
    exact ⟨hphase.trans hp, hfault, hcfg, hoe, hout, hinit, hframe, hline⟩

/-- The block waits for an acknowledgement: `req` = `REQ_WAIT` in an SPI phase (10_state.md R23). -/
def Waiting (s : State) : Prop :=
  isSpiPhase s.phase = true ∧ s.req = .wait

theorem waiting_of_inv {s : State} (hinv : Inv s) (hreq : s.req = .wait) : Waiting s := by
  obtain ⟨hspi, -⟩ := hinv
  exact ⟨hspi (by simp [hreq]), hreq⟩

/-- In the next `k` steps neither an acknowledgement of this block nor a reset is taken (60_exceptions.md R113). -/
def SilentFor (k : Nat) (s : State) : Prop :=
  ∀ j u, j < k → runFor j s = .next u → (turnOf u).rst = false ∧
    ¬ ((turnOf u).move = .acknowledge .thisBlock ∧ acknowledgeEnabled u = true)

section
variable {s t : State}

theorem Waiting.sequencerEnabled_eq_false (h : Waiting s) : sequencerEnabled s = false := by
  obtain ⟨hphase, hreq⟩ := h
  unfold sequencerEnabled
  cases hp : s.phase with
  | bSpiInit | wOpen | wXfer0 | wXfer1 | wClose => simp [hreq]
  | idle | bPinMode | bSetHigh | wCsLow | wCsHigh | fault => simp [hp, isSpiPhase] at hphase

theorem Waiting.of_registers_eq (h : Waiting s) (hkept : registers t = registers s) : Waiting t := by
  obtain ⟨-, -, -, -, -, -, -, hphase, hreq⟩ := registers_eq_iff.1 hkept
  rwa [Waiting, hphase, hreq]

/-- A run of `k + 1` steps that answers a next state is a step and a run of `k`. -/
theorem exists_step_of_runFor_succ {k : Nat} (h : runFor (k + 1) s = .next t) :
    ∃ u, step s = .next u ∧ runFor k u = .next t := by
  cases hs : step s with
  | next u => exact ⟨u, rfl, (runFor_succ k hs).symm.trans h⟩
  | fault r => cases r
  | refused r =>
    have hrun : runFor (k + 1) s = .refused r := by
      simp only [runFor, Host.Core.run, core, hs]
    simp [hrun] at h

theorem SilentFor.after_step {k : Nat} {u : State} (h : SilentFor (k + 1) s) (hs : step s = .next u) :
    SilentFor k u :=
  fun j v hj hv => h (j + 1) v (by omega) ((runFor_succ j hs).trans hv)

/-- A waiting block stays as it is for as long as the collaborator is silent. -/
theorem run_keeps_registers (k : Nat) (hwait : Waiting s) (hsilent : SilentFor k s) (h : runFor k s = .next t) :
    registers t = registers s := by
  induction k generalizing s with
  | zero => rw [next_inj.1 h]
  | succ k ih =>
    obtain ⟨u, hs, hrun⟩ := exists_step_of_runFor_succ h
    obtain ⟨hrst, hack⟩ := hsilent 0 s (by omega) rfl
    have hkept : registers u = registers s :=
      step_keeps_registers hs hrst hwait.sequencerEnabled_eq_false hack
    exact (ih (hwait.of_registers_eq hkept) (hsilent.after_step hs) hrun).trans hkept

theorem isWritePhase_of_isCsLowPhase {p : Phase} (h : isCsLowPhase p = true) : isWritePhase p = true := by
  cases p with
  | wOpen | wXfer0 | wXfer1 | wClose | wCsHigh => rfl
  | idle | bPinMode | bSetHigh | bSpiInit | wCsLow | fault => simp [isCsLowPhase] at h

/-- In the phases of a write sequence between the pin writes the block drives CS low (10_state.md R31). -/
theorem csLow_of_inv (hinv : Inv s) (hlow : isCsLowPhase s.phase = true) : s.csOe = true ∧ s.csOut = false := by
  obtain ⟨-, hwrite, hcs, -⟩ := hinv
  obtain ⟨hoe, hout⟩ := hcs (hwrite (isWritePhase_of_isCsLowPhase hlow))
  exact ⟨hoe, hout.2 hlow⟩

end

/-- Settles O43: by induction on the steps the registers stay, those that drive the CS line among them; and the reset
step abandons the request. -/
theorem silentCollaboratorHolds : Obligations.SilentCollaboratorHolds := by
  refine ⟨fun k s t hinv hreq hsilent h => ?_, fun s t _ h hrst => ?_⟩
  · have hkept : registers t = registers s := run_keeps_registers k (waiting_of_inv hinv hreq) hsilent h
    obtain ⟨-, -, hoe, hout, -, hfault, -, hphase, hreq'⟩ := registers_eq_iff.1 hkept
    refine ⟨hphase, hreq'.trans hreq, hfault, fun hp => ?_⟩
    have hlow : isCsLowPhase s.phase = true := by
      rcases hp with hp | hp | hp | hp <;> rw [hp] <;> rfl
    obtain ⟨hdriven, hzero⟩ := csLow_of_inv hinv hlow
    simp [lineLevel, hoe, hout, hdriven, hzero]
  · rw [eq_resetStep_of_rst h hrst]
    exact ⟨rfl, rfl⟩

end Sys2Proof.Proofs
end

section
/-! PROOFS. The family 70_reset_and_hazards.md: the reset step, a bus that no reset released, and a command port that a
busy block does not read. -/

namespace Sys2Proof.Proofs

open Sys2Proof.Machine Sys2Proof.Safety

section
variable {s : State}

theorem step_of_rst (h : (turnOf s).rst = true) : step s = .next (resetStep (takeTurn s)) := by
  rw [step_eq, if_pos h]

theorem step_of_not_rst (h : (turnOf s).rst = false) : step s = moveOutcome (turnOf s).move (takeTurn s) := by
  rw [step_eq, if_neg (by simp [h])]

/-- A reset releases a bus the block holds, if it releases any (70_reset_and_hazards.md R123). -/
theorem resetStep_bus (s : State) :
    (resetStep s).bus = if holdsBus s = true ∧ Config.busReleaseOnReset = true then none else s.bus := by
  simp only [resetStep, emit_bus, putWire_bus, Bool.and_eq_true]

theorem outstanding_of_req_none (h : s.req = .none) : outstanding s = none := by
  simp [outstanding, spiReq, h]

theorem acknowledgeEnabled_of_outstanding_none (h : outstanding s = none) : acknowledgeEnabled s = false := by
  simp only [acknowledgeEnabled, h]

end

/-- From `s` to `t` no requester's BEGIN is acknowledged. -/
def GrantsNoBegin (s t : State) : Prop :=
  ∃ new, t.trace = s.trace ++ new ∧ ∀ e ∈ new, ∀ who, e.event ≠ .spiAck who .spiBegin

/-- The block does not hold the bus, nor is it about to with a request left over from another phase. -/
def NotHolding (s : State) : Prop :=
  ReqOnlyInSpiPhase s ∧ holdsBus s = false

/-- The block owns the bus without holding it, as after a reset that did not release it (70_reset_and_hazards.md
R123). -/
def OwnsUnheld (s : State) : Prop :=
  busOwner s = some .thisBlock ∧ NotHolding s

section
variable {s t : State}

theorem GrantsNoBegin.of_trace_eq (h : t.trace = s.trace) : GrantsNoBegin s t :=
  ⟨[], by simp [h], by simp⟩

theorem GrantsNoBegin.of_entry {e : Entry} (h : t.trace = s.trace ++ [e])
    (he : ∀ who, e.event ≠ .spiAck who .spiBegin) : GrantsNoBegin s t :=
  ⟨[e], h, by simpa using he⟩

theorem GrantsNoBegin.trans {u : State} (h : GrantsNoBegin s t) (h' : GrantsNoBegin t u) : GrantsNoBegin s u := by
  obtain ⟨new, ht, hnew⟩ := h
  obtain ⟨new', hu, hnew'⟩ := h'
  exact ⟨new ++ new', by simp [hu, ht], fun e he => (List.mem_append.1 he).elim (hnew e) (hnew' e)⟩

theorem LeavesBus.grantsNoBegin (h : LeavesBus s t) : GrantsNoBegin s t := by
  obtain ⟨-, new, -, ht, -, hnew, -⟩ := h
  exact ⟨new, ht, fun e he who => hnew e he who _⟩

theorem NotHolding.of_registers_eq (h : NotHolding s) (hkept : registers t = registers s) : NotHolding t := by
  obtain ⟨-, -, -, -, -, -, -, hp, hr⟩ := registers_eq_iff.1 hkept
  rwa [NotHolding, ReqOnlyInSpiPhase, holdsBus, hp, hr]

theorem NotHolding.req_eq_none (h : NotHolding s) (hp : isSpiPhase s.phase = false) : s.req = .none := by
  by_contra hr
  simp [h.1 hr] at hp

/-- With no request on its way the block holds the bus in the transfer phases and in W_CLOSE only (10_state.md R25). -/
theorem notHolding_of_req_none (hr : s.req = .none) (hp : s.phase ∉ [.wXfer0, .wXfer1, .wClose]) : NotHolding s := by
  refine ⟨fun h => absurd hr h, ?_⟩
  cases hs : s.phase <;> simp_all [holdsBus]

theorem notHolding_acceptWrite (ch buf g1x act : Bool) (value : BitVec 16) (hr : s.req = .none) :
    NotHolding (acceptWrite ch buf g1x act value s) := by
  refine notHolding_of_req_none (by unfold acceptWrite; split <;> exact hr) ?_
  rw [acceptWrite_phase]
  split <;> simp

theorem notHolding_spiPhase (r : Request) {complete : State → State} {next : Phase} (h : NotHolding s)
    (hissue : s.req = .none → NotHolding (setReq .wait s))
    (hconsume : s.req = .ack → NotHolding (setPhase next (complete (setReq .none s)))) :
    NotHolding (spiPhase r complete next s) := by
  rcases spiPhase_cases r complete next s with ⟨hr, ht⟩ | ⟨-, ht⟩ | ⟨hr, ht⟩ <;> rw [ht]
  · exact hissue hr
  · exact h
  · exact hconsume hr

/-- The sequencer does not take hold of the bus: once a BEGIN is acknowledged the block holds it already (10_state.md
R25). -/
theorem notHolding_sequencerNext (h : NotHolding s) : NotHolding (sequencerNext s) := by
  have hhold : holdsBus s = false := h.2
  unfold sequencerNext
  cases hp : s.phase with
  | idle =>
    have hr : s.req = .none := h.req_eq_none (by rw [hp]; rfl)
    dsimp only
    split
    · split
      · exact notHolding_acceptWrite _ _ _ _ _ hr
      · exact notHolding_of_req_none hr (by simp)
      · exact h
    · exact h
  | bPinMode | bSetHigh | wCsLow | wCsHigh =>
    have hr : s.req = .none := h.req_eq_none (by rw [hp]; rfl)
    exact notHolding_of_req_none hr (by simp)
  | bSpiInit =>
    refine notHolding_spiPhase _ h (fun _ => ?_) fun _ => notHolding_of_req_none rfl (by simp)
    simp [NotHolding, ReqOnlyInSpiPhase, holdsBus, isSpiPhase, hp]
  | wOpen =>
    refine notHolding_spiPhase _ h (fun _ => ?_) fun hr => ?_
    · simp [NotHolding, ReqOnlyInSpiPhase, holdsBus, isSpiPhase, hp]
    · simp [holdsBus, hp, hr] at hhold
  | wXfer0 | wXfer1 => simp [holdsBus, hp] at hhold
  | wClose =>
    refine notHolding_spiPhase _ h (fun hr => ?_) fun _ => notHolding_of_req_none rfl (by simp)
    simp [holdsBus, hp, hr] at hhold
  | fault => exact h

end

section
variable {s t : State}

theorem ownsUnheld_of_leavesBus (h : OwnsUnheld s) (hl : LeavesBus s t) (hn : NotHolding t) :
    OwnsUnheld t ∧ GrantsNoBegin s t := by
  have hb : t.bus = s.bus := hl.1
  exact ⟨⟨by rw [busOwner, hb]; exact h.1, hn⟩, hl.grantsNoBegin⟩

/-- Of its own requests a block that owns the bus without holding it is granted INIT only: BEGIN needs a free bus, and
XFER and END are requested only of a bus the block holds. -/
theorem OwnsUnheld.bSpiInit_of_granted (h : OwnsUnheld s) {r : Request} (ho : outstanding s = some r)
    (hg : grantable .thisBlock r s = true) : s.phase = .bSpiInit ∧ r = .spiInit := by
  obtain ⟨howner, -, hhold⟩ := h
  obtain ⟨hr, hpr⟩ := outstanding_eq_some.1 ho
  cases hp : s.phase with
  | bSpiInit => exact ⟨rfl, by simpa [phaseRequest, hp, eq_comm] using hpr⟩
  | wOpen =>
    obtain rfl : Request.spiBegin s.cfg = r := by simpa [phaseRequest, hp] using hpr
    have hfree : s.bus = none := by simpa [grantable] using hg
    simp [busOwner, hfree] at howner
  | wXfer0 | wXfer1 | wClose => simp [holdsBus, hp, hr] at hhold
  | idle | bPinMode | bSetHigh | wCsLow | wCsHigh | fault => simp [phaseRequest, hp] at hpr

theorem ownsUnheld_answer (r : Request) (h : OwnsUnheld s) :
    OwnsUnheld (answer r s) ∧ GrantsNoBegin s (answer r s) := by
  rcases answer_cases r s with ⟨ho, hg, ha⟩ | ⟨-, ha⟩ <;> rw [ha]
  · obtain ⟨hp, rfl⟩ := h.bSpiInit_of_granted ho hg
    refine ⟨⟨h.1, ?_⟩, .of_entry rfl (by simp [requestOp])⟩
    simp [NotHolding, ReqOnlyInSpiPhase, holdsBus, isSpiPhase, performOp, hp]
  · exact ⟨h, .of_trace_eq rfl⟩

theorem ownsUnheld_acknowledgeNext (h : OwnsUnheld s) :
    OwnsUnheld (acknowledgeNext s) ∧ GrantsNoBegin s (acknowledgeNext s) := by
  unfold acknowledgeNext
  split
  · exact ownsUnheld_answer _ h
  · exact ⟨h, .of_trace_eq rfl⟩

theorem ownsUnheld_answerForeign (user : Nat) (h : OwnsUnheld s) :
    OwnsUnheld (answerForeign user s) ∧ GrantsNoBegin s (answerForeign user s) := by
  rcases answerForeign_cases user s with ⟨r, -, hg, ha⟩ | ha <;> rw [ha]
  · obtain rfl := eq_spiInit_of_grantable_foreign h.1 hg
    exact ⟨h, .of_entry rfl (by simp [requestOp])⟩
  · exact ⟨h, .of_trace_eq rfl⟩

/-- A reset releases no bus but a held one. -/
theorem ownsUnheld_resetStep (h : OwnsUnheld s) : OwnsUnheld (resetStep s) ∧ GrantsNoBegin s (resetStep s) := by
  obtain ⟨howner, -, hhold⟩ := h
  have hbus : (resetStep s).bus = s.bus := by simp [resetStep_bus, hhold]
  refine ⟨⟨by rwa [busOwner, hbus], ?_⟩, .of_entry (e := ⟨.reset, .reset⟩) rfl (by simp)⟩
  exact notHolding_of_req_none rfl (by simp [resetStep])

/-- No agent's step takes such a bus from the block, or makes the block hold it. -/
theorem step_keeps_ownsUnheld (h : step s = .next t) (hs : OwnsUnheld s) : OwnsUnheld t ∧ GrantsNoBegin s t := by
  have hu : OwnsUnheld (takeTurn s) := hs
  have hn : NotHolding (takeTurn s) := hs.2
  change OwnsUnheld t ∧ GrantsNoBegin (takeTurn s) t
  rcases step_cases h with ⟨-, rfl⟩ | ⟨-, ⟨-, rfl⟩ | ⟨-, rfl⟩ | ⟨cmd, -, rfl⟩ | ⟨-, rfl⟩ | ⟨user, -, rfl⟩ |
    ⟨user, r, -, rfl⟩ | ⟨user, -, rfl⟩⟩
  · exact ownsUnheld_resetStep hu
  · exact ownsUnheld_of_leavesBus hu (leavesBus_sequencerNext _) (notHolding_sequencerNext hn)
  · exact ownsUnheld_acknowledgeNext hu
  · exact ⟨hu, .of_trace_eq rfl⟩
  · exact ⟨hu, .of_trace_eq rfl⟩
  · exact ownsUnheld_answerForeign user hu
  · exact ownsUnheld_of_leavesBus hu (leavesBus_issueForeign user r _)
      (hn.of_registers_eq (registers_issueForeign user r _))
  · exact ownsUnheld_of_leavesBus hu (leavesBus_resetForeign user hu.1)
      (hn.of_registers_eq (registers_resetForeign user _))

theorem run_keeps_ownsUnheld (k : Nat) (hs : OwnsUnheld s) (h : runFor k s = .next t) :
    OwnsUnheld t ∧ GrantsNoBegin s t := by
  induction k generalizing s with
  | zero =>
    obtain rfl := next_inj.1 h
    exact ⟨hs, .of_trace_eq rfl⟩
  | succ k ih =>
    obtain ⟨u, hstep, hrun⟩ := exists_step_of_runFor_succ h
    obtain ⟨hu, hsu⟩ := step_keeps_ownsUnheld hstep hs
    obtain ⟨ht, hut⟩ := ih hu hrun
    exact ⟨ht, hsu.trans hut⟩

end

/-- Settles O44: the reset step field by field; and, by induction on the steps, a bus owned and not held stays so, since
no request but INIT is granted on it. -/
theorem resetStepRule : Obligations.ResetStepRule := by
  refine ⟨fun s hrst => ?_, fun k s t hreq howner hhold h => ?_⟩
  · have hbus : (resetStep (takeTurn s)).bus =
        if holdsBus s = true ∧ Config.busReleaseOnReset = true then none else s.bus := resetStep_bus _
    have hnone : outstanding (resetStep (takeTurn s)) = none := outstanding_of_req_none rfl
    refine ⟨resetStep (takeTurn s), step_of_rst hrst, ?_, hnone, acknowledgeEnabled_of_outstanding_none hnone, rfl⟩
    rw [← hbus]
    rfl
  · obtain ⟨⟨howner', -, hhold'⟩, new, htrace, hnew⟩ := run_keeps_ownsUnheld k ⟨howner, hreq, hhold⟩ h
    refine ⟨howner', hhold', ?_⟩
    rwa [htrace, List.drop_left]

/-- The state with this on the command port (10_state.md R26). -/
def withPort (v : Bool) (c : CmdWord) (s : State) : State :=
  { s with cmdValid := v, cmd := c }

section
variable (v : Bool) (c : CmdWord) (s : State)

@[simp] theorem withPort_phase : (withPort v c s).phase = s.phase := rfl
@[simp] theorem withPort_req : (withPort v c s).req = s.req := rfl
@[simp] theorem withPort_foreignReqs : (withPort v c s).foreignReqs = s.foreignReqs := rfl
@[simp] theorem outstanding_withPort : outstanding (withPort v c s) = outstanding s := rfl
@[simp] theorem grantable_withPort (who : Requester) (r : Request) :
    grantable who r (withPort v c s) = grantable who r s := rfl
@[simp] theorem turnOf_withPort : turnOf (withPort v c s) = turnOf s := rfl
@[simp] theorem takeTurn_withPort : takeTurn (withPort v c s) = withPort v c (takeTurn s) := rfl

theorem resetStep_withPort : resetStep (withPort v c s) = withPort v c (resetStep s) := rfl

theorem resetForeign_withPort (user : Nat) : resetForeign user (withPort v c s) = withPort v c (resetForeign user s) :=
  rfl

theorem performOp_withPort (who : Requester) (r : Request) :
    performOp who r (withPort v c s) = withPort v c (performOp who r s) := by
  cases r <;> rfl

theorem spiPhase_withPort (r : Request) {complete : State → State} (next : Phase)
    (hc : ∀ u, complete (withPort v c u) = withPort v c (complete u)) :
    spiPhase r complete next (withPort v c s) = withPort v c (spiPhase r complete next s) := by
  unfold spiPhase
  rw [withPort_req]
  cases s.req with
  | none | wait => rfl
  | ack => exact congrArg (setPhase next) (hc (setReq .none s))

/-- The command port is read in IDLE only (10_state.md R26). -/
theorem sequencerNext_withPort (h : busy s = true) :
    sequencerNext (withPort v c s) = withPort v c (sequencerNext s) := by
  unfold sequencerNext
  rw [withPort_phase]
  cases hp : s.phase with
  | idle => simp [busy, hp] at h
  | bPinMode | bSetHigh | wCsLow | wCsHigh | fault => rfl
  | bSpiInit | wOpen | wXfer0 | wXfer1 | wClose => exact spiPhase_withPort v c s _ _ fun _ => rfl

theorem acknowledgeNext_withPort : acknowledgeNext (withPort v c s) = withPort v c (acknowledgeNext s) := by
  unfold acknowledgeNext answer
  rw [outstanding_withPort]
  split
  · rw [grantable_withPort, performOp_withPort]
    split <;> rfl
  · rfl

theorem issueForeign_withPort (user : Nat) (r : Request) :
    issueForeign user r (withPort v c s) = withPort v c (issueForeign user r s) := by
  unfold issueForeign
  rw [withPort_foreignReqs]
  split <;> rfl

theorem answerForeign_withPort (user : Nat) :
    answerForeign user (withPort v c s) = withPort v c (answerForeign user s) := by
  unfold answerForeign
  rw [withPort_foreignReqs]
  split
  · rw [grantable_withPort]
    split
    · exact congrArg (emit _ _) (performOp_withPort v c { s with foreignReqs := _ } _ _)
    · rfl
  · rfl

end

section
variable {s t : State} (v : Bool) (c : CmdWord)

/-- A move that is not the host's has its outcome whatever the port shows, and leaves the port. -/
theorem moveOutcome_withPort (m : Move) (hbusy : busy s = true) (hpresent : ∀ cmd, m ≠ .present cmd)
    (hwithdraw : m ≠ .withdraw) (h : moveOutcome m s = .next t) :
    moveOutcome m (withPort v c s) = .next (withPort v c t) := by
  have of_commutes {f : State → State} (hm : ∀ u, moveOutcome m u = .next (f u))
      (hf : f (withPort v c s) = withPort v c (f s)) : moveOutcome m (withPort v c s) = .next (withPort v c t) := by
    rw [hm, hf, next_inj.1 ((hm s).symm.trans h)]
  cases m with
  | sequencer => exact of_commutes moveOutcome_sequencer (sequencerNext_withPort v c s hbusy)
  | acknowledge who =>
    cases who with
    | thisBlock => exact of_commutes moveOutcome_acknowledge (acknowledgeNext_withPort v c s)
    | foreign user => exact of_commutes (fun _ => rfl) (answerForeign_withPort v c s user)
  | present cmd => exact absurd rfl (hpresent cmd)
  | withdraw => exact absurd rfl hwithdraw
  | foreignRequest user r => exact of_commutes (fun _ => rfl) (issueForeign_withPort v c s user r)
  | foreignReset user => exact of_commutes (fun _ => rfl) (resetForeign_withPort v c s user)
  | breach => exact absurd h (by simp [moveOutcome, fetch, environment])

theorem step_withPort (hbusy : busy s = true) (hpresent : ∀ cmd, (turnOf s).move ≠ .present cmd)
    (hwithdraw : (turnOf s).move ≠ .withdraw) (h : step s = .next t) :
    step (withPort v c s) = .next (withPort v c t) := by
  cases hrst : (turnOf s).rst with
  | true =>
    rw [step_of_rst (by simpa using hrst), takeTurn_withPort, resetStep_withPort, eq_resetStep_of_rst h hrst]
  | false =>
    rw [step_of_not_rst hrst] at h
    rw [step_of_not_rst (by simpa using hrst)]
    exact moveOutcome_withPort (s := takeTurn s) v c _ hbusy hpresent hwithdraw h

end

/-- Settles O47: a host move writes the port; and no other mover reads it, the sequencer outside IDLE included. -/
theorem busyIgnoresCommandPort : Obligations.BusyIgnoresCommandPort := by
  refine ⟨fun s cmd hrst hm => ?_, fun s hrst hm => ?_, fun s t v c hbusy h hpresent hwithdraw =>
    step_withPort v c hbusy hpresent hwithdraw h⟩
  · rw [step_of_not_rst hrst, hm]
    rfl
  · rw [step_of_not_rst hrst, hm]
    rfl

end Sys2Proof.Proofs
end

section
/-! PROOFS. Encodings: decoding and encoding both ways, the request codes, the frame of a command word, and the operand
texts of the assembler. -/

namespace Sys2Proof.Proofs

open Sys2Proof.Machine Sys2Proof.Safety

theorem extractLsb'_encodeBegin (ignored : BitVec 20) : (encodeBegin ignored).extractLsb' 0 20 = ignored :=
  BitVec.extractLsb'_append_eq_right

theorem extractLsb'_encodeWrite (ch buf g1x act : Bool) (value : BitVec 16) :
    (encodeWrite ch buf g1x act value).extractLsb' 0 16 = value :=
  BitVec.extractLsb'_append_eq_right

theorem decodeCommand_encodeBegin (ignored : BitVec 20) : decodeCommand (encodeBegin ignored) = .beginCmd ignored := by
  have hop : (encodeBegin ignored).getLsbD 20 = false :=
    (getLsbD_encodeBegin ignored 20).trans (BitVec.getLsbD_of_ge _ _ (by omega))
  obtain ⟨-, -, hdec⟩ := (commandSelectedByOpBit _).1 hop
  rw [hdec, extractLsb'_encodeBegin]

theorem decodeCommand_encodeWrite (ch buf g1x act : Bool) (value : BitVec 16) :
    decodeCommand (encodeWrite ch buf g1x act value) = .writeCmd ch buf g1x act value := by
  have hop : (encodeWrite ch buf g1x act value).getLsbD 20 = true := getLsbD_encodeWrite ch buf g1x act value 20
  obtain ⟨-, -, hdec⟩ := (commandSelectedByOpBit _).2 hop
  rw [hdec, extractLsb'_encodeWrite]
  simp only [getLsbD_encodeWrite]
  simp

/-- With `op` = 1 a word is the WRITE of its fields (30_encoding.md R51). -/
theorem encodeWrite_fields (w : CmdWord) (h : w.getLsbD 20 = true) :
    encodeWrite (w.getLsbD 19) (w.getLsbD 18) (w.getLsbD 17) (w.getLsbD 16) (w.extractLsb' 0 16) = w := by
  apply BitVec.eq_of_getLsbD_eq
  intro i hi
  rw [getLsbD_encodeWrite, BitVec.getLsbD_extractLsb']
  by_cases hv : i < 16
  · simp [hv]
  · obtain rfl | rfl | rfl | rfl | rfl : i = 16 ∨ i = 17 ∨ i = 18 ∨ i = 19 ∨ i = 20 := by omega
    all_goals simp [h]

theorem encode_decodeCommand (w : CmdWord) : encode (decodeCommand w) = .command w := by
  cases hop : w.getLsbD 20 with
  | false =>
    obtain ⟨-, -, hdec⟩ := (commandSelectedByOpBit w).1 hop
    rw [hdec, encode, encodeBegin_extractLsb' w hop]
  | true =>
    obtain ⟨-, -, hdec⟩ := (commandSelectedByOpBit w).2 hop
    rw [hdec, encode, encodeWrite_fields w hop]

theorem packCfg_unpackCfg (w : BitVec 35) : packCfg (unpackCfg w) = w := by
  apply BitVec.eq_of_getLsbD_eq
  intro i hi
  rw [getLsbD_packCfg]
  simp only [unpackCfg, BitVec.getLsbD_extractLsb']
  by_cases hmode : i < 2
  · simp [hmode]
  · obtain rfl | h : i = 2 ∨ 3 ≤ i := by omega
    · simp
    · simp [hmode, show ¬ i < 3 by omega, show i - 3 < 32 by omega, show 3 + (i - 3) = i by omega]

section
variable (cfg : BitVec 35) (b : Byte)

-- The four codes of `spi_op`, and the one signal each reads (30_encoding.md R56).

theorem decodeRequest_zero : decodeRequest ⟨0b00#2, cfg, b⟩ = .spiInit := by
  simp [decodeRequest, rowMatches, rowSpiInit]

theorem decodeRequest_one : decodeRequest ⟨0b01#2, cfg, b⟩ = .spiBegin (unpackCfg cfg) := by
  simp [decodeRequest, rowMatches, rowSpiInit, rowSpiBegin]

theorem decodeRequest_two : decodeRequest ⟨0b10#2, cfg, b⟩ = .spiXfer b := by
  simp [decodeRequest, rowMatches, rowSpiInit, rowSpiBegin, rowSpiXfer]

theorem decodeRequest_three : decodeRequest ⟨0b11#2, cfg, b⟩ = .spiEnd := by
  simp [decodeRequest, rowMatches, rowSpiInit, rowSpiBegin, rowSpiXfer]

end

theorem two_bit_cases : ∀ op : BitVec 2, op = 0b00#2 ∨ op = 0b01#2 ∨ op = 0b10#2 ∨ op = 0b11#2 := by decide

/-- Settles O3: a command word is its `op` bit and its fields, and a request its code and the one signal that code
reads. -/
theorem encodeDecodeAgree : Obligations.EncodeDecodeAgree := by
  refine ⟨fun i => ?_, encode_decodeCommand, fun p => ?_⟩
  · cases i with
    | beginCmd ignored => exact decodeCommand_encodeBegin ignored
    | writeCmd ch buf g1x act value => exact decodeCommand_encodeWrite ch buf g1x act value
    | spiInit => exact decodeRequest_zero ..
    | spiBegin cfg => exact (decodeRequest_one ..).trans (congrArg Instr.spiBegin (unpackCfg_packCfg cfg))
    | spiXfer byte => exact decodeRequest_two ..
    | spiEnd => exact decodeRequest_three ..
  · obtain ⟨op, cfg, wdata⟩ := p
    rcases two_bit_cases op with rfl | rfl | rfl | rfl
    · rw [decode, decodeRequest_zero]; rfl
    · rw [decode, decodeRequest_one, encode, packCfg_unpackCfg]; rfl
    · rw [decode, decodeRequest_two]; rfl
    · rw [decode, decodeRequest_three]; rfl

/-- Settles O1: each word decoded by computation. -/
theorem decodeSpecWords : Obligations.DecodeSpecWords := by
  unfold Obligations.DecodeSpecWords
  decide

/-- Settles O4: the codes by computation, with BEGIN's argument read back from its packing. -/
theorem requestCodes : Obligations.RequestCodes := by
  refine ⟨fun c cfg b => ⟨decodeRequest_zero .., ?_, decodeRequest_two .., decodeRequest_three ..⟩, rfl, rfl, rfl, rfl,
    fun s r h => ?_⟩
  · rw [decodeRequest_one, unpackCfg_packCfg]
  · simp only [requestPort, h]

/-- Settles O6: each flag stands alone at its bit, above the value. -/
theorem writeCanonicalEncoding : Obligations.WriteCanonicalEncoding := by
  intro ch buf g1x act value
  apply BitVec.eq_of_getLsbD_eq
  intro i hi
  simp only [BitVec.getLsbD_or, BitVec.getLsbD_shiftLeft, BitVec.getLsbD_setWidth, getLsbD_encodeWrite, getLsbD_ofBool,
    BitVec.getLsbD_one]
  by_cases hv : i < 16
  · simp [hv, hi, show i < 17 by omega, show i < 18 by omega, show i < 19 by omega, show i < 20 by omega]
  · obtain rfl | rfl | rfl | rfl | rfl : i = 16 ∨ i = 17 ∨ i = 18 ∨ i = 19 ∨ i = 20 := by omega
    all_goals simp

-- Frames as numbers and as the packing of their fields (41_write.md §2)

/-- A concatenation as a number. -/
theorem toNat_append_eq_mul_add {n m : Nat} (x : BitVec n) (y : BitVec m) :
    (x ++ y).toNat = x.toNat * 2 ^ m + y.toNat := by
  rw [BitVec.toNat_append, ← Nat.shiftLeft_add_eq_or_of_lt y.isLt, Nat.shiftLeft_eq]

theorem toNat_pack (ch buf g1x act : Bool) (value : BitVec 16) :
    (pack ch buf g1x act value).toNat =
      ch.toNat * 32768 + buf.toNat * 16384 + g1x.toNat * 8192 + act.toNat * 4096 + value.toNat % 4096 := by
  simp only [pack, firstByte, configBits, secondByte, toNat_append_eq_mul_add, BitVec.extractLsb'_toNat,
    BitVec.toNat_ofBool, Nat.shiftRight_eq_div_pow]
  omega

/-- A frame is the packing of its own fields (30_encoding.md R49). -/
theorem pack_fields (f : FrameWord) :
    pack (f.getLsbD 15) (f.getLsbD 14) (f.getLsbD 13) (f.getLsbD 12) ((f.extractLsb' 0 12).setWidth 16) = f := by
  apply BitVec.eq_of_getLsbD_eq
  intro i hi
  rw [getLsbD_pack]
  by_cases hv : i < 12
  · simp [hv, hi]
  · obtain rfl | rfl | rfl | rfl : i = 12 ∨ i = 13 ∨ i = 14 ∨ i = 15 := by omega
    all_goals simp

theorem toNat_setWidth_extractLsb'_lt (f : FrameWord) : ((f.extractLsb' 0 12).setWidth 16).toNat < 4096 := by
  have h := (f.extractLsb' 0 12).isLt
  simp only [BitVec.toNat_setWidth]
  omega

/-- The frame of a decoded command word is `{cmd[19:16], cmd[11:0]}` (30_encoding.md R51; 41_write.md R73). -/
theorem pack_eq_frameOf (w : CmdWord) :
    pack (w.getLsbD 19) (w.getLsbD 18) (w.getLsbD 17) (w.getLsbD 16) (w.extractLsb' 0 16) = frameOf w := by
  apply BitVec.eq_of_getLsbD_eq
  intro i hi
  have happ := BitVec.getLsbD_append (x := w.extractLsb' 16 4) (y := w.extractLsb' 0 12) (i := i)
  rw [getLsbD_pack, frameOf]
  refine Eq.trans ?_ happ.symm
  simp only [BitVec.getLsbD_extractLsb']
  by_cases hv : i < 12
  · simp [hv, show i < 16 by omega]
  · obtain rfl | rfl | rfl | rfl : i = 12 ∨ i = 13 ∨ i = 14 ∨ i = 15 := by omega
    all_goals simp

/-- Settles O12: the sum's terms do not overlap, so that the flags and the value can be read back from it. -/
theorem packArithmetic : Obligations.PackArithmetic := by
  refine ⟨toNat_pack, fun f => ⟨_, _, _, _, _, toNat_setWidth_extractLsb'_lt f, pack_fields f⟩, ?_⟩
  intro ch buf g1x act ch' buf' g1x' act' value value' hlt hlt' h
  have hsum := congrArg BitVec.toNat h
  rw [toNat_pack, toNat_pack] at hsum
  have hle := fun b : Bool => Bool.toNat_le b
  have h₁ := hle ch; have h₂ := hle buf; have h₃ := hle g1x; have h₄ := hle act
  have h₁' := hle ch'; have h₂' := hle buf'; have h₃' := hle g1x'; have h₄' := hle act'
  have hinj {b b' : Bool} (hb : b.toNat = b'.toNat) : b = b' := by revert hb; cases b <;> cases b' <;> decide
  exact ⟨hinj (by omega), hinj (by omega), hinj (by omega), hinj (by omega), BitVec.eq_of_toNat_eq (by omega)⟩

/-- A frame keeps the value modulo 4096 (41_write.md §2). -/
theorem pack_truncated (ch buf g1x act : Bool) (value : BitVec 16) :
    pack ch buf g1x act value = pack ch buf g1x act (BitVec.ofNat 16 (value.toNat % 4096)) := by
  apply BitVec.eq_of_toNat_eq
  simp only [toNat_pack, BitVec.toNat_ofNat]
  omega

-- Operand texts (30_encoding.md §4)

theorem decimalDigit_decimalChar : ∀ d : Fin 10, decimalDigit (decimalChar d) = some d.val := by decide

theorem hexDigit_hexChar : ∀ d : Fin 16 × Bool, hexDigit (hexChar d) = some d.1.val := by decide

theorem decimalChar_ne_x : ∀ d : Fin 10, decimalChar d ≠ 'x' := by decide

theorem char_le_iff {c d : Char} : c ≤ d ↔ c.toNat ≤ d.toNat := Iff.rfl

/-- Every decimal digit is one of the ten characters. -/
theorem exists_decimalChar {c : Char} {n : Nat} (h : decimalDigit c = some n) : ∃ d : Fin 10, c = decimalChar d := by
  unfold decimalDigit at h
  split at h
  next hc =>
    simp only [char_le_iff] at hc
    have hlo : 48 ≤ c.toNat := hc.1
    have hhi : c.toNat ≤ 57 := hc.2
    refine ⟨⟨c.toNat - 48, by omega⟩, ?_⟩
    rw [decimalChar, show 48 + (c.toNat - 48) = c.toNat by omega, Char.ofNat_toNat]
  next => cases h

/-- Every hexadecimal digit is a decimal one or one of six letters, of either case. -/
theorem exists_hexChar {c : Char} {n : Nat} (h : hexDigit c = some n) : ∃ d : Fin 16 × Bool, c = hexChar d := by
  unfold hexDigit at h
  split at h
  next hc =>
    simp only [char_le_iff] at hc
    have hlo : 97 ≤ c.toNat := hc.1
    have hhi : c.toNat ≤ 102 := hc.2
    refine ⟨(⟨c.toNat - 87, by omega⟩, false), ?_⟩
    simp only [hexChar]
    rw [if_neg (by omega), if_neg (by simp), show 87 + (c.toNat - 87) = c.toNat by omega, Char.ofNat_toNat]
  next =>
    split at h
    next hc =>
      simp only [char_le_iff] at hc
      have hlo : 65 ≤ c.toNat := hc.1
      have hhi : c.toNat ≤ 70 := hc.2
      refine ⟨(⟨c.toNat - 55, by omega⟩, true), ?_⟩
      simp only [hexChar]
      rw [if_neg (by omega), if_pos trivial, show 55 + (c.toNat - 55) = c.toNat by omega, Char.ofNat_toNat]
    next =>
      obtain ⟨d, rfl⟩ := exists_decimalChar h
      refine ⟨(⟨d.val, by omega⟩, false), ?_⟩
      simp only [hexChar, decimalChar]
      rw [if_pos d.isLt]

section
variable {ι : Type} {base : Nat} {digit : Char → Option Nat} {char : ι → Char} {val : ι → Nat}

/-- Digits spell their number, the most significant first. -/
theorem readDigits_map (hdigit : ∀ d, digit (char d) = some (val d)) (ds : List ι) (acc : Nat) :
    readDigits base digit acc (ds.map char) =
      some (acc * base ^ ds.length + Nat.ofDigits base (ds.map val).reverse) := by
  induction ds generalizing acc with
  | nil => simp [readDigits]
  | cons d ds ih =>
    simp only [List.map_cons, readDigits, hdigit, ih, Nat.ofDigits_reverse_cons, List.length_map, List.length_cons,
      Option.some.injEq]
    ring

/-- Only digits spell a number. -/
theorem exists_map_of_readDigits (hchar : ∀ c n, digit c = some n → ∃ d, c = char d) {t : List Char} {acc n : Nat}
    (h : readDigits base digit acc t = some n) : ∃ ds : List ι, t = ds.map char := by
  induction t generalizing acc with
  | nil => exact ⟨[], rfl⟩
  | cons c cs ih =>
    unfold readDigits at h
    split at h
    next m hm =>
      obtain ⟨d, rfl⟩ := hchar c m hm
      obtain ⟨ds, rfl⟩ := ih h
      exact ⟨d :: ds, rfl⟩
    next => cases h

end

theorem readNumber_hex {ds : List Char} (h : ds ≠ []) :
    readNumber ('0' :: 'x' :: ds) = readDigits 16 hexDigit 0 ds := by
  cases ds with
  | nil => exact absurd rfl h
  | cons d ds => rfl

/-- A text that does not begin with `0x` is read as decimal. -/
theorem readNumber_decimal {t : List Char} (hne : t ≠ []) (hx : ∀ ds, t ≠ '0' :: 'x' :: ds) :
    readNumber t = readDigits 10 decimalDigit 0 t := by
  unfold readNumber
  split
  · exact absurd rfl hne
  · exact absurd rfl (hx [])
  · exact absurd rfl (hx _)
  · rfl

theorem map_decimalChar_ne_hex (ds : List (Fin 10)) (t : List Char) : ds.map decimalChar ≠ '0' :: 'x' :: t := by
  intro h
  obtain ⟨-, ds', rfl, -, h'⟩ := List.map_eq_cons_iff.1 h
  obtain ⟨d, -, rfl, hd, -⟩ := List.map_eq_cons_iff.1 h'
  exact decimalChar_ne_x d hd

theorem readNumber_map_decimalChar (ds : List (Fin 10)) (h : ds ≠ []) :
    readNumber (ds.map decimalChar) = some (Nat.ofDigits 10 (ds.map Fin.val).reverse) := by
  rw [readNumber_decimal (by simpa using h) (map_decimalChar_ne_hex ds), readDigits_map decimalDigit_decimalChar]
  simp

theorem readNumber_map_hexChar (ds : List (Fin 16 × Bool)) (h : ds ≠ []) :
    readNumber ('0' :: 'x' :: ds.map hexChar) = some (Nat.ofDigits 16 (ds.map (fun d => d.1.val)).reverse) := by
  rw [readNumber_hex (by simpa using h), readDigits_map (val := fun d => d.1.val) hexDigit_hexChar]
  simp

/-- A text that reads as a number is a list of decimal digits, or `0x` and a list of hexadecimal ones. -/
theorem digits_of_readNumber {t : List Char} {n : Nat} (h : readNumber t = some n) :
    (∃ ds : List (Fin 10), ds ≠ [] ∧ t = ds.map decimalChar) ∨
      ∃ ds : List (Fin 16 × Bool), ds ≠ [] ∧ t = '0' :: 'x' :: ds.map hexChar := by
  by_cases hx : ∃ ds, t = '0' :: 'x' :: ds
  · obtain ⟨ds, rfl⟩ := hx
    have hne : ds ≠ [] := by rintro rfl; cases h
    rw [readNumber_hex hne] at h
    obtain ⟨ds', rfl⟩ := exists_map_of_readDigits (fun _ _ => exists_hexChar) h
    exact .inr ⟨ds', by simpa using hne, rfl⟩
  · have hne : t ≠ [] := by rintro rfl; cases h
    rw [readNumber_decimal hne fun ds hds => hx ⟨ds, hds⟩] at h
    obtain ⟨ds, rfl⟩ := exists_map_of_readDigits (fun _ _ => exists_decimalChar) h
    exact .inl ⟨ds, by simpa using hne, rfl⟩

theorem readFlag_eq_ok (t : List Char) (b : Bool) :
    readFlag t = .ok b ↔
      (b = false ∧ (t = ['0'] ∨ t = ['f', 'a', 'l', 's', 'e'])) ∨
        (b = true ∧ (t = ['1'] ∨ t = ['t', 'r', 'u', 'e'])) := by
  unfold readFlag
  split
  next h => rcases h with rfl | rfl <;> cases b <;> simp
  next h =>
    split
    next h' => rcases h' with rfl | rfl <;> cases b <;> simp
    next h' => simp [h, h']

theorem readValue_of_some {t : List Char} {n : Nat} (h : readNumber t = some n) :
    readValue t = if n ≤ 65535 then .ok (BitVec.ofNat 16 n) else .error .badValue := by
  simp only [readValue, h]

theorem readValue_of_none {t : List Char} (h : readNumber t = none) : readValue t = .error .badValue := by
  simp only [readValue, h]

/-- An accepted value is the number itself: 16 bits hold it. -/
theorem readValue_eq_ok (t : List Char) (v : BitVec 16) : readValue t = .ok v ↔ readNumber t = some v.toNat := by
  have hv := v.isLt
  cases h : readNumber t with
  | none => simp [readValue_of_none h]
  | some n =>
    rw [readValue_of_some h]
    split
    next hle =>
      simp only [Except.ok.injEq, Option.some.injEq]
      constructor
      · rintro rfl
        rw [BitVec.toNat_ofNat]
        omega
      · rintro rfl
        exact BitVec.ofNat_toNat ..
    next hgt =>
      simp only [reduceCtorEq, Option.some.injEq, false_iff]
      omega

/-- Settles O9: digit characters and digits correspond, and a text is read digit by digit. -/
theorem assemblerOperands : Obligations.AssemblerOperands := by
  refine ⟨readFlag_eq_ok, readValue_eq_ok, fun t n h hn => ?_, fun t h => readValue_of_none h,
    readNumber_map_decimalChar, readNumber_map_hexChar, fun t hdec hhex => ?_⟩
  · rw [readValue_of_some h, if_neg (by omega)]
  · rw [Option.eq_none_iff_forall_ne_some]
    intro n hn
    rcases digits_of_readNumber hn with ⟨ds, hne, rfl⟩ | ⟨ds, hne, rfl⟩
    · exact hdec ds hne rfl
    · exact hhex ds hne rfl

end Sys2Proof.Proofs
end

section
/-! PROOFS. What a step can be, agent by agent: the sequencer's micro-step, the acknowledgement of this block's request,
and a move that is neither. -/

namespace Sys2Proof.Proofs

open Sys2Proof.Machine Sys2Proof.Safety

/-- What the sequencer's micro-step can be (40_begin.md R62; 41_write.md R72): nothing, the acceptance of the presented
command, a pin write, or one of the three parts of an SPI phase. -/
inductive SequencerStep (s : State) : State → Prop where
  | rests : sequencerEnabled s = false → SequencerStep s s
  | acceptsBegin : s.phase = .idle → s.cmdValid = true → isBegin s.cmd = true →
      SequencerStep s (setPhase .bPinMode (emit .sequencer (.cmdAccept s.cmd) s))
  | acceptsWrite : s.phase = .idle → s.cmdValid = true → isBegin s.cmd = false → s.initialized = true →
      SequencerStep s (setPhase .wCsLow { emit .sequencer (.cmdAccept s.cmd) s with frame := frameOf s.cmd })
  | faults : s.phase = .idle → s.cmdValid = true → isBegin s.cmd = false → s.initialized = false →
      SequencerStep s (raiseFault .writeBeforeBegin (emit .sequencer (.cmdAccept s.cmd) s))
  | configuresOutput : s.phase = .bPinMode → SequencerStep s (setPhase .bSetHigh (configureOutput s))
  | drivesHigh : s.phase = .bSetHigh → SequencerStep s (setPhase .bSpiInit (driveCs true s))
  | drivesLow : s.phase = .wCsLow → SequencerStep s (setPhase .wOpen (driveCs false s))
  | issues {r : Request} : phaseRequest s = some r → s.req = .none →
      SequencerStep s (emit .sequencer (.spiReq r) (setReq .wait s))
  | advances {next : Phase} :
      (s.phase = .wOpen ∧ next = .wXfer0) ∨ (s.phase = .wXfer0 ∧ next = .wXfer1) ∨
        (s.phase = .wXfer1 ∧ next = .wClose) ∨ (s.phase = .wClose ∧ next = .wCsHigh) →
      s.req = .ack → SequencerStep s (setPhase next (setReq .none s))
  | finishesBegin : s.phase = .bSpiInit → s.req = .ack →
      SequencerStep s (setPhase .idle (beginComplete (setReq .none s)))
  | finishesWrite : s.phase = .wCsHigh →
      SequencerStep s (setPhase .idle (emit .sequencer .cmdDone (driveCs true s)))

section
variable {s t : State}

/-- After initialisation a WRITE is accepted and latches its frame (41_write.md R77). -/
theorem acceptWrite_of_initialized (ch buf g1x act : Bool) (value : BitVec 16) (h : s.initialized = true) :
    acceptWrite ch buf g1x act value s =
      setPhase .wCsLow { emit .sequencer (.cmdAccept (encodeWrite ch buf g1x act value)) s with
        frame := pack ch buf g1x act value } := by
  simp only [acceptWrite, h, if_true]

theorem sequencerStep_accept (hp : s.phase = .idle) (hv : s.cmdValid = true) : SequencerStep s (sequencerNext s) := by
  unfold sequencerNext
  cases hop : s.cmd.getLsbD 20 with
  | false =>
    obtain ⟨-, -, hdec⟩ := (commandSelectedByOpBit s.cmd).1 hop
    simp only [hp, hv, if_true, hdec, encodeBegin_extractLsb' _ hop]
    exact .acceptsBegin hp hv (by rw [isBegin, hop]; rfl)
  | true =>
    obtain ⟨-, -, hdec⟩ := (commandSelectedByOpBit s.cmd).2 hop
    have hwrite : isBegin s.cmd = false := by rw [isBegin, hop]; rfl
    simp only [hp, hv, if_true, hdec]
    cases hi : s.initialized with
    | false =>
      rw [acceptWrite_of_not_initialized _ _ _ _ _ hi, encodeWrite_fields _ hop]
      exact .faults hp hv hwrite hi
    | true =>
      rw [acceptWrite_of_initialized _ _ _ _ _ hi, encodeWrite_fields _ hop, pack_eq_frameOf]
      exact .acceptsWrite hp hv hwrite hi

/-- An SPI phase issues, waits or consumes (10_state.md R24). -/
theorem sequencerStep_spiPhase {r : Request} {complete : State → State} {next : Phase}
    (hr : phaseRequest s = some r) (hwait : s.req = .wait → sequencerEnabled s = false)
    (hack : s.req = .ack → SequencerStep s (setPhase next (complete (setReq .none s)))) :
    SequencerStep s (spiPhase r complete next s) := by
  rcases spiPhase_cases r complete next s with ⟨hreq, h⟩ | ⟨hreq, h⟩ | ⟨hreq, h⟩ <;> rw [h]
  · exact .issues hr hreq
  · exact .rests (hwait hreq)
  · exact hack hreq

theorem sequencerStep_sequencerNext (s : State) : SequencerStep s (sequencerNext s) := by
  cases hen : sequencerEnabled s with
  | false => rw [sequencerNext_of_not_enabled hen]; exact .rests hen
  | true =>
    cases hp : s.phase with
    | idle => exact sequencerStep_accept hp (by simpa [sequencerEnabled, hp] using hen)
    | bPinMode => simpa only [sequencerNext, hp] using SequencerStep.configuresOutput hp
    | bSetHigh => simpa only [sequencerNext, hp] using SequencerStep.drivesHigh hp
    | wCsLow => simpa only [sequencerNext, hp] using SequencerStep.drivesLow hp
    | wCsHigh => simpa only [sequencerNext, hp] using SequencerStep.finishesWrite hp
    | fault => simp [sequencerEnabled, hp] at hen
    | bSpiInit =>
      simp only [sequencerNext, hp]
      exact sequencerStep_spiPhase (by simp [phaseRequest, hp]) (by simp [sequencerEnabled, hp]) (.finishesBegin hp)
    | wOpen | wXfer0 | wXfer1 | wClose =>
      simp only [sequencerNext, hp]
      exact sequencerStep_spiPhase (by simp [phaseRequest, hp]) (by simp [sequencerEnabled, hp])
        (.advances (by simp [hp]))

/-- What the collaborator's move for this block can be (42_spi_bus.md R96): nothing, or the acknowledgement of the
outstanding request with its effect. -/
inductive AcknowledgeStep (s : State) : State → Prop where
  | rests : acknowledgeEnabled s = false → AcknowledgeStep s s
  | grants {r : Request} : outstanding s = some r → grantable .thisBlock r s = true →
      AcknowledgeStep s (emit .spiCollaborator (.spiAck .thisBlock (requestOp r))
        (setReq .ack (performOp .thisBlock r s)))

theorem acknowledgeStep_acknowledgeNext (s : State) : AcknowledgeStep s (acknowledgeNext s) := by
  cases hen : acknowledgeEnabled s with
  | false => rw [acknowledgeNext_of_not_enabled hen]; exact .rests hen
  | true =>
    unfold acknowledgeEnabled at hen
    unfold acknowledgeNext
    cases ho : outstanding s with
    | none => simp [ho] at hen
    | some r =>
      have hg : grantable .thisBlock r s = true := by simpa only [ho] using hen
      simp only [answer_of_granted ho hg]
      exact .grants ho hg

/-- What a move of the host or for a foreign user can do to the bus: a foreign user takes it when it is free, and one that
owns it releases it or is stranded with it (42_spi_bus.md R98, R100; 60_exceptions.md R120). -/
inductive ForeignBusStep : Option Transaction → Option Transaction → Prop where
  | keeps (bus : Option Transaction) : ForeignBusStep bus bus
  | takes (user : Nat) (c : BusCfg) : ForeignBusStep none (some ⟨.foreign user, c⟩)
  | releases (user : Nat) (c : BusCfg) : ForeignBusStep (some ⟨.foreign user, c⟩) none
  | strands (user : Nat) (c : BusCfg) : ForeignBusStep (some ⟨.foreign user, c⟩) (some ⟨.stranded user, c⟩)

theorem bus_of_busOwner {o : BusOwner} (h : busOwner s = some o) : ∃ c, s.bus = some ⟨o, c⟩ := by
  obtain ⟨⟨owner, c⟩, hb, rfl⟩ := Option.map_eq_some_iff.1 h
  exact ⟨c, hb⟩

/-- What every move of the host or for a foreign user is to this block: its registers stay, the trace gets no event of
this block or of its reset, the wires no bit of it, and of the bus only what is not this block's changes. -/
structure EnvironmentStep (s t : State) : Prop where
  registers : registers t = registers s
  bus : ForeignBusStep s.bus t.bus
  distinct : ForeignDistinct s → ForeignDistinct t
  trace : ∃ new, t.trace = s.trace ++ new ∧ ∀ e ∈ new, isOwn e = false ∧ e ≠ ⟨.reset, .reset⟩
  wire : ∃ items, t.wire = s.wire ++ items ∧ ∀ b, .bit .thisBlock b ∉ items

theorem environmentStep_of_port_move (hreg : registers t = registers s) (hb : t.bus = s.bus)
    (hf : t.foreignReqs = s.foreignReqs) (ht : t.trace = s.trace) (hw : t.wire = s.wire) : EnvironmentStep s t where
  registers := hreg
  bus := hb ▸ .keeps _
  distinct h := by rwa [ForeignDistinct, hf]
  trace := ⟨[], by simp [ht], by simp⟩
  wire := ⟨[], by simp [hw], by simp⟩

/-- A foreign user's requests without one user's are still at most one a user. -/
theorem foreignDistinct_filter (user : Nat) (h : ForeignDistinct s)
    (hf : t.foreignReqs = s.foreignReqs.filter (·.1 != user)) :
    ForeignDistinct t := by
  rw [ForeignDistinct, hf]
  exact h.sublist (List.filter_sublist.map _)

theorem environmentStep_issueForeign (user : Nat) (r : Request) (s : State) :
    EnvironmentStep s (issueForeign user r s) := by
  rcases issueForeign_cases user r s with ⟨hnew, h⟩ | ⟨-, h⟩ <;> rw [h]
  · exact {
      registers := rfl
      bus := .keeps _
      distinct := fun hd => by
        simpa [ForeignDistinct, List.nodup_append, hd] using fun a x hx ha => hnew (List.mem_map.2 ⟨(a, x), hx, ha⟩)
      trace := ⟨[⟨.foreignUser user, .spiReq r⟩], rfl, by simp [isOwn]⟩
      wire := ⟨[], by simp, by simp⟩ }
  · exact environmentStep_of_port_move rfl rfl rfl rfl rfl

theorem foreignBusStep_resetForeign (user : Nat) (s : State) : ForeignBusStep s.bus (resetForeign user s).bus := by
  by_cases ho : busOwner s = some (.foreign user)
  · obtain ⟨c, hb⟩ := bus_of_busOwner ho
    simp only [resetForeign, emit_bus, hb, if_true]
    split
    · exact .releases user c
    · exact .strands user c
  · rcases resetForeign_bus user s with ⟨ho', -⟩ | ⟨-, hb⟩
    · exact absurd ho' ho
    · rw [hb]
      exact .keeps _

theorem environmentStep_resetForeign (user : Nat) (s : State) : EnvironmentStep s (resetForeign user s) where
  registers := rfl
  bus := foreignBusStep_resetForeign user s
  distinct h := foreignDistinct_filter user h rfl
  trace := ⟨[⟨.foreignReset user, .reset⟩], rfl, by simp [isOwn]⟩
  wire := ⟨[], by simp [resetForeign], by simp⟩

/-- The bus under a foreign user's operation that its precondition allows (42_spi_bus.md R97 to R100). -/
theorem foreignBusStep_performOp {user : Nat} {r : Request} (hg : grantable (.foreign user) r s = true) :
    ForeignBusStep s.bus (performOp (.foreign user) r s).bus := by
  cases r with
  | spiInit | spiXfer b => exact .keeps _
  | spiBegin c =>
    have hb : s.bus = none := by simpa [grantable] using hg
    rw [hb]
    exact .takes user c
  | spiEnd =>
    obtain ⟨c, hb⟩ := bus_of_busOwner (o := .foreign user) (by simpa [grantable] using hg)
    rw [hb]
    exact .releases user c

theorem performOp_foreign_wire (user : Nat) (r : Request) (s : State) :
    ∃ items, (performOp (.foreign user) r s).wire = s.wire ++ items ∧ ∀ b, .bit .thisBlock b ∉ items := by
  cases r with
  | spiInit | spiEnd => exact ⟨[], by simp [performOp], by simp⟩
  | spiBegin c => exact ⟨[.config c], rfl, by simp⟩
  | spiXfer b => exact ⟨_, rfl, by simp⟩

theorem environmentStep_answerForeign (user : Nat) (s : State) : EnvironmentStep s (answerForeign user s) := by
  have hreg := registers_answerForeign user s
  rcases answerForeign_cases user s with ⟨r, -, hg, h⟩ | h
  · rw [h] at hreg ⊢
    exact {
      registers := hreg
      bus := foreignBusStep_performOp
        (s := { s with foreignReqs := s.foreignReqs.filter (fun p => p.1 != user) }) hg
      distinct := fun hd => foreignDistinct_filter user hd (by rw [emit_foreignReqs, performOp_frame])
      trace := ⟨[⟨.spiCollaborator, .spiAck (.foreign user) (requestOp r)⟩], by simp, by simp [isOwn]⟩
      wire := performOp_foreign_wire user r { s with foreignReqs := s.foreignReqs.filter (fun p => p.1 != user) } }
  · rw [h]
    exact environmentStep_of_port_move rfl rfl rfl rfl rfl

/-- Everything a step can be: a reset step, the sequencer's, the acknowledgement of this block's request, or a move of the
environment. -/
theorem step_agents (h : step s = .next t) :
    ((turnOf s).rst = true ∧ t = resetStep (takeTurn s)) ∨
    ((turnOf s).rst = false ∧
      (((turnOf s).move = .sequencer ∧ SequencerStep (takeTurn s) t) ∨
       ((turnOf s).move = .acknowledge .thisBlock ∧ AcknowledgeStep (takeTurn s) t) ∨
       ((turnOf s).move ≠ .sequencer ∧ (turnOf s).move ≠ .acknowledge .thisBlock ∧
          EnvironmentStep (takeTurn s) t))) := by
  refine (step_cases h).imp_right (And.imp_right ?_)
  rintro (⟨hm, rfl⟩ | ⟨hm, rfl⟩ | ⟨cmd, hm, rfl⟩ | ⟨hm, rfl⟩ | ⟨user, hm, rfl⟩ | ⟨user, r, hm, rfl⟩ | ⟨user, hm, rfl⟩)
  · exact .inl ⟨hm, sequencerStep_sequencerNext _⟩
  · exact .inr (.inl ⟨hm, acknowledgeStep_acknowledgeNext _⟩)
  · exact .inr (.inr ⟨by simp [hm], by simp [hm], environmentStep_of_port_move rfl rfl rfl rfl rfl⟩)
  · exact .inr (.inr ⟨by simp [hm], by simp [hm], environmentStep_of_port_move rfl rfl rfl rfl rfl⟩)
  · exact .inr (.inr ⟨by simp [hm], by simp [hm], environmentStep_answerForeign user _⟩)
  · exact .inr (.inr ⟨by simp [hm], by simp [hm], environmentStep_issueForeign user r _⟩)
  · exact .inr (.inr ⟨by simp [hm], by simp [hm], environmentStep_resetForeign user _⟩)

end

end Sys2Proof.Proofs
end

section
/-! PROOFS. The invariant of the machine, in three parts: the control registers, the pins, and the bus; and what follows
from it for the request port, the distance to a command's end, and the registers' writers. -/

namespace Sys2Proof.Proofs

open Sys2Proof.Machine Sys2Proof.Safety

/-- The part of the invariant about `phase`, `req`, `initialized` and `fault`. -/
abbrev ControlInv (s : State) : Prop := ReqOnlyInSpiPhase s ∧ WriteOnlyInitialized s ∧ FaultIsRecorded s

/-- The part of the invariant about `cs_oe`, `cs_out` and `cfg`. -/
abbrev PinsInv (s : State) : Prop := CsFollowsPhase s ∧ CfgFixed s ∧ BeginDrivesPin s

/-- The part of the invariant about the bus: a held bus is owned, and an owned one held unless `q`. -/
abbrev BusInv (q : Prop) (s : State) : Prop :=
  HeldBusIsOwned s ∧ (busOwner s = some .thisBlock → holdsBus s = true ∨ q)

theorem inv_iff_parts {s : State} :
    Inv s ↔ ControlInv s ∧ PinsInv s ∧ BusInv (Config.busReleaseOnReset = false) s ∧ ForeignDistinct s := by
  constructor
  · rintro ⟨hreq, hwrite, hcs, hcfg, hheld, howned, hfault, hpin, hdistinct⟩
    exact ⟨⟨hreq, hwrite, hfault⟩, ⟨hcs, hcfg, hpin⟩, ⟨hheld, howned⟩, hdistinct⟩
  · rintro ⟨⟨hreq, hwrite, hfault⟩, ⟨hcs, hcfg, hpin⟩, ⟨hheld, howned⟩, hdistinct⟩
    exact ⟨hreq, hwrite, hcs, hcfg, hheld, howned, hfault, hpin, hdistinct⟩

section
variable {s t : State}

/-- The phases with a request are the SPI phases (10_state.md R23). -/
theorem isSpiPhase_of_phaseRequest {r : Request} (h : phaseRequest s = some r) : isSpiPhase s.phase = true := by
  cases hp : s.phase <;> simp_all [phaseRequest, isSpiPhase]

theorem bus_sequencerStep (h : SequencerStep s t) : t.bus = s.bus := by
  cases h <;> rfl

theorem foreignReqs_sequencerStep (h : SequencerStep s t) : t.foreignReqs = s.foreignReqs := by
  cases h <;> rfl

/-- The sequencer writes `cfg` at the end of a BEGIN only (40_begin.md R67). -/
theorem cfg_sequencerStep (h : SequencerStep s t) :
    t.cfg = s.cfg ∨ (s.phase = .bSpiInit ∧ s.req = .ack ∧ t.cfg = cfgDac) := by
  cases h with
  | finishesBegin hp hr => exact .inr ⟨hp, hr, rfl⟩
  | rests _ | acceptsBegin _ _ _ | acceptsWrite _ _ _ _ | faults _ _ _ _ | configuresOutput _ | drivesHigh _
  | drivesLow _ | issues _ _ | advances _ _ | finishesWrite _ => exact .inl rfl

theorem controlInv_sequencerStep (hs : ControlInv s) (h : SequencerStep s t) : ControlInv t := by
  cases h with
  | rests _ => exact hs
  | issues hr _ =>
    obtain ⟨-, hwrite, hfault⟩ := hs
    exact ⟨fun _ => isSpiPhase_of_phaseRequest hr, hwrite, hfault⟩
  | advances hp _ =>
    rcases hp with ⟨hp, rfl⟩ | ⟨hp, rfl⟩ | ⟨hp, rfl⟩ | ⟨hp, rfl⟩ <;>
      simp_all [ControlInv, ReqOnlyInSpiPhase, WriteOnlyInitialized, FaultIsRecorded, isWritePhase]
  | acceptsBegin hp | acceptsWrite hp | faults hp | configuresOutput hp | drivesHigh hp | drivesLow hp
  | finishesBegin hp | finishesWrite hp =>
    simp_all [ControlInv, ReqOnlyInSpiPhase, WriteOnlyInitialized, FaultIsRecorded, isSpiPhase, isWritePhase,
      raiseFault_eq, configureOutput_eq, driveCs_eq, beginComplete]

/-- The pins follow the phases in which they are written: driven in B_PINMODE, high in B_SETHIGH and W_CSHIGH, low in
W_CSLOW, which only an initialised block reaches (10_state.md R31, R32). -/
theorem pinsInv_sequencerStep (hs : PinsInv s) (hwrite : WriteOnlyInitialized s) (h : SequencerStep s t) :
    PinsInv t := by
  cases h with
  | rests _ | issues _ _ => exact hs
  | advances hp _ =>
    rcases hp with ⟨hp, rfl⟩ | ⟨hp, rfl⟩ | ⟨hp, rfl⟩ | ⟨hp, rfl⟩ <;>
      simp_all [PinsInv, CsFollowsPhase, CfgFixed, BeginDrivesPin, isCsLowPhase]
  | acceptsBegin hp | acceptsWrite hp | faults hp | configuresOutput hp | drivesHigh hp | drivesLow hp
  | finishesBegin hp | finishesWrite hp =>
    simp_all [PinsInv, CsFollowsPhase, CfgFixed, BeginDrivesPin, WriteOnlyInitialized, isCsLowPhase, isWritePhase,
      raiseFault_eq, configureOutput_eq, driveCs_eq, beginComplete]

/-- The sequencer neither takes hold of the bus nor lets go of it: the collaborator does, by the acknowledgements of BEGIN
and END (10_state.md R25). -/
theorem holdsBus_sequencerStep (hreq : ReqOnlyInSpiPhase s) (h : SequencerStep s t) : holdsBus t = holdsBus s := by
  cases h with
  | rests _ => rfl
  | issues _ hr => cases hp : s.phase <;> simp [holdsBus, hp, hr]
  | advances hp hr => rcases hp with ⟨hp, rfl⟩ | ⟨hp, rfl⟩ | ⟨hp, rfl⟩ | ⟨hp, rfl⟩ <;> simp [holdsBus, hp, hr]
  | drivesLow hp =>
    have hr : s.req = .none := by simpa [ReqOnlyInSpiPhase, hp, isSpiPhase] using hreq
    simp [holdsBus, driveCs_eq, hp, hr]
  | acceptsBegin hp | acceptsWrite hp | faults hp | configuresOutput hp | drivesHigh hp | finishesBegin hp
  | finishesWrite hp =>
    simp [holdsBus, hp, raiseFault_eq, configureOutput_eq, driveCs_eq, beginComplete]

theorem busInv_sequencerStep {q : Prop} (hs : BusInv q s) (hreq : ReqOnlyInSpiPhase s) (h : SequencerStep s t) :
    BusInv q t := by
  obtain ⟨hheld, howned⟩ := hs
  have hhold := holdsBus_sequencerStep hreq h
  have hbus := bus_sequencerStep h
  refine ⟨fun ht => ?_, fun ht => ?_⟩
  · rw [hhold] at ht
    rw [hbus, hheld ht]
    rcases cfg_sequencerStep h with hc | ⟨hp, -, -⟩
    · rw [hc]
    · simp [holdsBus, hp] at ht
  · rw [hhold]
    exact howned (by rwa [busOwner, hbus] at ht)

/-- A granted request and the bus: INIT and XFER leave it, with BEGIN the block takes hold of it, with END it lets go of
it (42_spi_bus.md R97 to R100). -/
theorem bus_of_granted {r : Request} (ho : outstanding s = some r)
    (ht : t = emit .spiCollaborator (.spiAck .thisBlock (requestOp r)) (setReq .ack (performOp .thisBlock r s))) :
    (t.bus = s.bus ∧ holdsBus t = holdsBus s) ∨ (t.bus = some ⟨.thisBlock, s.cfg⟩ ∧ holdsBus t = true) ∨
      (t.bus = none ∧ holdsBus t = false) := by
  obtain ⟨hr, hpr⟩ := outstanding_eq_some.1 ho
  subst ht
  cases hp : s.phase with
  | bSpiInit | wXfer0 | wXfer1 =>
    obtain rfl : _ = r := by simpa only [phaseRequest, hp, Option.some.injEq] using hpr
    exact .inl ⟨rfl, by simp [holdsBus, performOp, hp]⟩
  | wOpen =>
    obtain rfl : _ = r := by simpa only [phaseRequest, hp, Option.some.injEq] using hpr
    exact .inr (.inl ⟨rfl, by simp [holdsBus, performOp, hp]⟩)
  | wClose =>
    obtain rfl : _ = r := by simpa only [phaseRequest, hp, Option.some.injEq] using hpr
    exact .inr (.inr ⟨rfl, by simp [holdsBus, performOp, hp]⟩)
  | idle | bPinMode | bSetHigh | wCsLow | wCsHigh | fault => simp [phaseRequest, hp] at hpr

/-- An acknowledgement writes no register but `req`. -/
theorem registers_acknowledgeStep (h : AcknowledgeStep s t) : registers t = { registers s with req := t.req } := by
  cases h with
  | rests _ => rfl
  | grants _ _ => rw [performOp_frame]; rfl

theorem foreignReqs_acknowledgeStep (h : AcknowledgeStep s t) : t.foreignReqs = s.foreignReqs := by
  cases h with
  | rests _ => rfl
  | grants _ _ => rw [performOp_frame]; rfl

theorem controlInv_acknowledgeStep (hs : ControlInv s) (h : AcknowledgeStep s t) : ControlInv t := by
  obtain ⟨-, hwrite, hfault⟩ := id hs
  cases h with
  | rests _ => exact hs
  | grants ho _ =>
    obtain ⟨-, hpr⟩ := outstanding_eq_some.1 ho
    rw [performOp_frame]
    exact ⟨fun _ => isSpiPhase_of_phaseRequest hpr, hwrite, hfault⟩

theorem pinsInv_acknowledgeStep (hs : PinsInv s) (h : AcknowledgeStep s t) : PinsInv t := by
  cases h with
  | rests _ => exact hs
  | grants _ _ => rw [performOp_frame]; exact hs

theorem busInv_acknowledgeStep {q : Prop} (hs : BusInv q s) (h : AcknowledgeStep s t) : BusInv q t := by
  have hcfg : t.cfg = s.cfg := congrArg Registers.cfg (registers_acknowledgeStep h)
  cases h with
  | rests _ => exact hs
  | grants ho _ =>
    rcases bus_of_granted ho rfl with ⟨hbus, hhold⟩ | ⟨hbus, hhold⟩ | ⟨hbus, hhold⟩
    · rwa [BusInv, HeldBusIsOwned, busOwner, hbus, hhold, hcfg]
    · exact ⟨fun _ => by rw [hbus, hcfg], fun _ => .inl hhold⟩
    · exact ⟨fun ht => by simp [hhold] at ht, fun ht => by rw [busOwner, hbus] at ht; simp at ht⟩

theorem holdsBus_of_registers (hreg : registers t = registers s) : holdsBus t = holdsBus s := by
  obtain ⟨-, -, -, -, -, -, -, hp, hr⟩ := registers_eq_iff.1 hreg
  rw [holdsBus, hp, hr]
  rfl

/-- A foreign move leaves a bus that this block owns, and makes no other bus its own. -/
theorem ForeignBusStep.bus_eq (h : ForeignBusStep s.bus t.bus)
    (ho : busOwner s = some .thisBlock ∨ busOwner t = some .thisBlock) : t.bus = s.bus := by
  unfold busOwner at ho
  generalize s.bus = b at *
  generalize t.bus = b' at *
  cases h with
  | keeps => rfl
  | takes user c | releases user c | strands user c => simp at ho

theorem busInv_environmentStep {q : Prop} (hs : BusInv q s) (h : EnvironmentStep s t) : BusInv q t := by
  obtain ⟨hheld, howned⟩ := hs
  have hhold := holdsBus_of_registers h.registers
  have hcfg : t.cfg = s.cfg := congrArg Registers.cfg h.registers
  refine ⟨fun ht => ?_, fun ht => ?_⟩
  · have hb := hheld (hhold.symm.trans ht)
    rw [h.bus.bus_eq (.inl (by simp [busOwner, hb])), hb, hcfg]
  · have hb := h.bus.bus_eq (.inr ht)
    rw [hhold]
    exact howned (by rwa [busOwner, hb] at ht)

theorem inv_environmentStep (hs : Inv s) (h : EnvironmentStep s t) : Inv t := by
  obtain ⟨hcontrol, hpins, hbus, hdistinct⟩ := inv_iff_parts.1 hs
  obtain ⟨-, hcfg, hoe, hout, hinit, hfault, -, hphase, hreq⟩ := registers_eq_iff.1 h.registers
  refine inv_iff_parts.2 ⟨?_, ?_, busInv_environmentStep hbus h, h.distinct hdistinct⟩
  · rwa [ControlInv, ReqOnlyInSpiPhase, WriteOnlyInitialized, FaultIsRecorded, hphase, hreq, hinit, hfault]
  · rwa [PinsInv, CsFollowsPhase, CfgFixed, BeginDrivesPin, hphase, hinit, hoe, hout, hcfg]

/-- A bus still owned after a reset is one the reset did not release (70_reset_and_hazards.md R123). -/
theorem inv_resetStep (hs : Inv s) : Inv (resetStep s) := by
  obtain ⟨-, -, ⟨-, howned⟩, hdistinct⟩ := inv_iff_parts.1 hs
  refine inv_iff_parts.2 ⟨?_, ?_, ⟨fun h => by simp [holdsBus, resetStep] at h, fun h => .inr ?_⟩, hdistinct⟩
  · simp [ControlInv, resetStep, ReqOnlyInSpiPhase, WriteOnlyInitialized, FaultIsRecorded, isWritePhase]
  · simp [PinsInv, resetStep, CsFollowsPhase, CfgFixed, BeginDrivesPin]
  · rw [busOwner, resetStep_bus] at h
    split at h
    next => simp at h
    next hrelease =>
      rcases howned h with hhold | hkeep
      · simpa [hhold] using hrelease
      · exact hkeep

/-- Settles O56: each agent's step keeps each part of the invariant. -/
theorem stepKeepsInvariant : Obligations.StepKeepsInvariant := by
  intro s t hs h
  have hu : Inv (takeTurn s) := hs
  obtain ⟨hcontrol, hpins, hbus, hdistinct⟩ := inv_iff_parts.1 hu
  rcases step_agents h with ⟨-, rfl⟩ | ⟨-, ⟨-, hstep⟩ | ⟨-, hstep⟩ | ⟨-, -, hstep⟩⟩
  · exact inv_resetStep hu
  · refine inv_iff_parts.2 ⟨controlInv_sequencerStep hcontrol hstep, pinsInv_sequencerStep hpins hcontrol.2.1 hstep,
      busInv_sequencerStep hbus hcontrol.1 hstep, ?_⟩
    rwa [ForeignDistinct, foreignReqs_sequencerStep hstep]
  · refine inv_iff_parts.2 ⟨controlInv_acknowledgeStep hcontrol hstep, pinsInv_acknowledgeStep hpins hstep,
      busInv_acknowledgeStep hbus hstep, ?_⟩
    rwa [ForeignDistinct, foreignReqs_acknowledgeStep hstep]
  · exact inv_environmentStep hu hstep

/-- Settles O55: nothing is running at reset, and nothing has been emitted. -/
theorem invariantAtReset : Obligations.InvariantAtReset :=
  ⟨by decide, [], by simp, rfl, .inl ⟨rfl, rfl⟩⟩

end

end Sys2Proof.Proofs
end

section
/-! PROOFS. The trace: it grows by the entries of one step, and this block's events since reset are those of whole
commands and of the running one so far. -/

namespace Sys2Proof.Proofs

open Sys2Proof.Machine Sys2Proof.Safety

/-- Of a step's entries at most one is a pin or SPI event (00_scope.md R10). -/
theorem StepEntries.length_pinOrSpi_le_one {line : LineId} {new : List Entry} (h : StepEntries line new) :
    (new.filter (fun e => isPinOrSpi e.event)).length ≤ 1 := by
  cases h with
  | nothing => simp
  | single _ => exact List.length_filter_le _ _
  | acceptAndFault w => simp [isPinOrSpi]
  | csHighAndDone => simp [isPinOrSpi]

/-- Settles O54: what each agent's step emits, counted. -/
theorem traceGrows : Obligations.TraceGrows := by
  intro s t h
  obtain ⟨-, new, htrace, hnew⟩ := step_emits h
  exact ⟨new, htrace, hnew.wellTagged_of_mem, hnew.length_pinOrSpi_le_one⟩

-- This block's events since reset

theorem ownSinceReset_append_reset (trace : List Entry) : ownSinceReset (trace ++ [⟨.reset, .reset⟩]) = [] := by
  simp [ownSinceReset]

theorem ownSinceReset_append_own (trace : List Entry) {new : List Entry} (h : ∀ e ∈ new, isOwn e = true) :
    ownSinceReset (trace ++ new) = ownSinceReset trace ++ new.map Entry.event := by
  induction new generalizing trace with
  | nil => simp
  | cons e new ih =>
    obtain ⟨he, hnew⟩ := List.forall_mem_cons.1 h
    have hne : e ≠ ⟨.reset, .reset⟩ := by rintro rfl; simp [isOwn] at he
    rw [List.append_cons, ih _ hnew]
    simp [ownSinceReset, he, hne]

theorem ownSinceReset_append_other (trace : List Entry) {new : List Entry}
    (h : ∀ e ∈ new, isOwn e = false ∧ e ≠ ⟨.reset, .reset⟩) : ownSinceReset (trace ++ new) = ownSinceReset trace := by
  induction new generalizing trace with
  | nil => simp
  | cons e new ih =>
    obtain ⟨⟨he, hne⟩, hnew⟩ := List.forall_mem_cons.1 h
    rw [List.append_cons, ih _ hnew]
    simp [ownSinceReset, he, hne]

/-- One more completed command: after initialisation any, before it a BEGIN (40_begin.md R70; 41_write.md R85). -/
theorem historyEvents_append (line : LineId) (done : List CmdWord) (w : CmdWord) (h : done = [] → isBegin w = true) :
    historyEvents line (done ++ [w]) = historyEvents line done ++ commandEvents line (!done.isEmpty) w := by
  cases done with
  | nil => simp [historyEvents, commandEvents, h rfl]
  | cons v vs => simp [historyEvents]

section
variable {s t : State}

/-- Conformance is about the registers and this block's events. -/
theorem traceConforms_of_registers (hs : TraceConforms s) (hreg : registers t = registers s)
    (hown : ownSinceReset t.trace = ownSinceReset s.trace) : TraceConforms t := by
  obtain ⟨hline, -, -, -, hinit, -, hframe, hphase, hreq⟩ := registers_eq_iff.1 hreg
  unfold TraceConforms Running eventsSoFar at *
  rwa [hline, hinit, hframe, hphase, hreq, hown]

/-- While a command runs, its events so far follow those of the completed ones. -/
theorem exists_running_of_traceConforms (hs : TraceConforms s) (hp : s.phase ≠ .idle) :
    ∃ done w, (∀ v ∈ done.head?, isBegin v = true) ∧ s.initialized = !done.isEmpty ∧ Running w s ∧
      ownSinceReset s.trace =
        historyEvents s.csLine done ++ (commandEvents s.csLine s.initialized w).take (eventsSoFar s) := by
  obtain ⟨done, hhead, hinit, ⟨hidle, -⟩ | ⟨w, hrun, hown⟩⟩ := hs
  · exact absurd hidle hp
  · exact ⟨done, w, hhead, hinit, hrun, hown⟩

/-- The running command goes on, by the events that stand next in its list. -/
theorem traceConforms_of_continued (hs : TraceConforms s) (hp : s.phase ≠ .idle) {events : List Event}
    (hline : t.csLine = s.csLine) (hinit : t.initialized = s.initialized)
    (hown : ownSinceReset t.trace = ownSinceReset s.trace ++ events)
    (hrun : ∀ w, Running w s → Running w t ∧
      (commandEvents s.csLine s.initialized w).take (eventsSoFar t) =
        (commandEvents s.csLine s.initialized w).take (eventsSoFar s) ++ events) : TraceConforms t := by
  obtain ⟨done, w, hhead, hinit', hw, hown'⟩ := exists_running_of_traceConforms hs hp
  obtain ⟨hwt, htake⟩ := hrun w hw
  exact ⟨done, hhead, hinit.trans hinit', .inr ⟨w, hwt, by rw [hown, hown', hline, hinit, htake, List.append_assoc]⟩⟩

/-- The running command emits the event that stands next in its list. -/
theorem traceConforms_of_next_event (hs : TraceConforms s) (hp : s.phase ≠ .idle) {e : Entry}
    (hline : t.csLine = s.csLine) (hinit : t.initialized = s.initialized) (htrace : t.trace = s.trace ++ [e])
    (hown : isOwn e = true) (hcount : eventsSoFar t = eventsSoFar s + 1) (hrun : ∀ w, Running w s → Running w t)
    (hnext : ∀ w, Running w s → (commandEvents s.csLine s.initialized w)[eventsSoFar s]? = some e.event) :
    TraceConforms t := by
  refine traceConforms_of_continued hs hp hline hinit (events := [e.event]) ?_ fun w hw => ⟨hrun w hw, ?_⟩
  · rw [htrace, ownSinceReset_append_own _ (by simpa using hown)]
    rfl
  · rw [hcount, List.take_add_one, hnext w hw]
    rfl

/-- A command is accepted in IDLE and emits its first events. -/
theorem traceConforms_of_accepted (hs : TraceConforms s) (hp : s.phase = .idle) {w : CmdWord} {new : List Entry}
    (hline : t.csLine = s.csLine) (hinit : t.initialized = s.initialized) (htrace : t.trace = s.trace ++ new)
    (hnew : ∀ e ∈ new, isOwn e = true) (hrun : Running w t)
    (htake : (commandEvents s.csLine s.initialized w).take (eventsSoFar t) = new.map Entry.event) :
    TraceConforms t := by
  obtain ⟨done, hhead, hinit', ⟨-, hown⟩ | ⟨v, hv, -⟩⟩ := hs
  · refine ⟨done, hhead, hinit.trans hinit', .inr ⟨w, hrun, ?_⟩⟩
    rw [htrace, ownSinceReset_append_own _ hnew, hown, hline, hinit, htake]
  · simp [Running, hp] at hv

/-- The running command emits the rest of its events and has completed. -/
theorem traceConforms_of_completed (hs : TraceConforms s) (hp : s.phase ≠ .idle) {new : List Entry}
    (hline : t.csLine = s.csLine) (hinit : t.initialized = true) (hidle : t.phase = .idle)
    (htrace : t.trace = s.trace ++ new) (hnew : ∀ e ∈ new, isOwn e = true)
    (hkind : ∀ w, Running w s → isBegin w = true ∨ s.initialized = true)
    (hrest : ∀ w, Running w s → (commandEvents s.csLine s.initialized w).take (eventsSoFar s) ++ new.map Entry.event =
      commandEvents s.csLine s.initialized w) : TraceConforms t := by
  obtain ⟨done, w, hhead, hinit', hw, hown⟩ := exists_running_of_traceConforms hs hp
  have hfirst : done = [] → isBegin w = true := by
    rintro rfl
    simpa [hinit'] using hkind w hw
  refine ⟨done ++ [w], ?_, by simp [hinit], .inl ⟨hidle, ?_⟩⟩
  · cases done with
    | nil => simpa using hfirst rfl
    | cons v vs => simpa using hhead
  · rw [htrace, ownSinceReset_append_own _ hnew, hown, List.append_assoc, hrest w hw, hline,
      historyEvents_append _ _ _ hfirst, hinit']

theorem commandEvents_of_begin {w : CmdWord} (line : LineId) (initialized : Bool) (h : isBegin w = true) :
    commandEvents line initialized w = beginEvents line w := by
  simp only [commandEvents, h, if_true]

theorem commandEvents_of_write {w : CmdWord} (line : LineId) (h : isBegin w = false) :
    commandEvents line true w = writeEvents line w := by
  simp only [commandEvents, h, Bool.false_eq_true, if_false, if_true]

/-- In a phase of BEGIN the running command's events are BEGIN's. -/
theorem commandEvents_of_running_begin {w : CmdWord} (hw : Running w s)
    (hp : s.phase = .bPinMode ∨ s.phase = .bSetHigh ∨ s.phase = .bSpiInit) :
    commandEvents s.csLine s.initialized w = beginEvents s.csLine w := by
  refine commandEvents_of_begin _ _ ?_
  rcases hp with hp | hp | hp <;> simpa [Running, hp] using hw

/-- In a phase of WRITE they are WRITE's, and the frame is its packed operands. -/
theorem commandEvents_of_running_write {w : CmdWord} (hinv : Inv s) (hw : Running w s)
    (hp : isWritePhase s.phase = true) :
    commandEvents s.csLine s.initialized w = writeEvents s.csLine w ∧ s.frame = frameOf w := by
  obtain ⟨-, hwrite, -⟩ := hinv
  have hkind : isBegin w = false ∧ s.frame = frameOf w := by
    cases hs : s.phase <;> simp_all [Running, isWritePhase]
  rw [hwrite hp]
  exact ⟨commandEvents_of_write _ hkind.1, hkind.2⟩

/-- The event of a running command that an SPI phase emits next: the request, and after it the acknowledgement
(40_begin.md R70; 41_write.md R85). -/
theorem next_event_of_phaseRequest {w : CmdWord} {r : Request} (hinv : Inv s) (hw : Running w s)
    (hr : phaseRequest s = some r) :
    (s.req = .none → (commandEvents s.csLine s.initialized w)[eventsSoFar s]? = some (.spiReq r)) ∧
      (s.req = .wait → (commandEvents s.csLine s.initialized w)[eventsSoFar s]? =
        some (.spiAck .thisBlock (requestOp r))) := by
  obtain ⟨-, hwrite, -, hcfg, -⟩ := id hinv
  cases hp : s.phase with
  | bSpiInit =>
    obtain rfl : _ = r := by simpa only [phaseRequest, hp, Option.some.injEq] using hr
    rw [commandEvents_of_running_begin hw (by simp [hp])]
    constructor <;> intro hreq <;> simp [beginEvents, eventsSoFar, reqLeft, requestOp, hp, hreq]
  | wOpen | wXfer0 | wXfer1 | wClose =>
    obtain rfl : _ = r := by simpa only [phaseRequest, hp, Option.some.injEq] using hr
    have hphase : isWritePhase s.phase = true := by rw [hp]; rfl
    have hdac : s.cfg = cfgDac := hcfg (hwrite hphase)
    obtain ⟨hevents, hframe⟩ := commandEvents_of_running_write hinv hw hphase
    rw [hevents]
    constructor <;> intro hreq <;> simp [writeEvents, eventsSoFar, reqLeft, requestOp, hp, hreq, hframe, hdac]
  | idle | bPinMode | bSetHigh | wCsLow | wCsHigh | fault => simp [phaseRequest, hp] at hr

theorem phase_ne_idle_of_phaseRequest {r : Request} (h : phaseRequest s = some r) : s.phase ≠ .idle := by
  intro hp
  simp [phaseRequest, hp] at h

/-- In an SPI phase the events so far are counted by the request's progress. -/
theorem eventsSoFar_of_req_succ {r : Request} (hr : phaseRequest s = some r) (hphase : t.phase = s.phase)
    (hreq : reqLeft t.req + 1 = reqLeft s.req) : eventsSoFar t = eventsSoFar s + 1 := by
  have hle : reqLeft s.req ≤ 3 := by cases s.req <;> simp [reqLeft]
  unfold eventsSoFar
  rw [hphase]
  cases hp : s.phase with
  | bSpiInit | wOpen | wXfer0 | wXfer1 | wClose => dsimp only; omega
  | idle | bPinMode | bSetHigh | wCsLow | wCsHigh | fault => simp [phaseRequest, hp] at hr

theorem running_of_eq {w : CmdWord} (hframe : t.frame = s.frame) (hphase : t.phase = s.phase) (h : Running w s) :
    Running w t := by
  unfold Running at *
  rwa [hframe, hphase]

theorem traceConforms_sequencerStep (hinv : Inv s) (hs : TraceConforms s) (h : SequencerStep s t) :
    TraceConforms t := by
  have hwrite : isWritePhase s.phase = true → s.initialized = true := hinv.2.1
  cases h with
  | rests _ => exact hs
  | acceptsBegin hp _ hw =>
    refine traceConforms_of_accepted hs hp (w := s.cmd) rfl rfl rfl (by simp [isOwn]) hw ?_
    simp [commandEvents_of_begin _ _ hw, eventsSoFar, beginEvents]
  | acceptsWrite hp _ hw hi =>
    refine traceConforms_of_accepted hs hp (w := s.cmd) rfl rfl rfl (by simp [isOwn]) ⟨hw, rfl⟩ ?_
    simp [hi, commandEvents_of_write _ hw, eventsSoFar, writeEvents]
  | faults hp _ hw hi =>
    refine traceConforms_of_accepted hs hp (w := s.cmd) rfl rfl (List.append_assoc ..) (by simp [isOwn]) hw ?_
    simp [hi, hw, commandEvents, eventsSoFar, raiseFault_eq]
  | configuresOutput hp =>
    refine traceConforms_of_next_event hs (by simp [hp]) rfl rfl rfl rfl (by simp [eventsSoFar, hp])
      (fun w hw => by simpa [Running, hp] using hw) fun w hw => ?_
    rw [commandEvents_of_running_begin hw (by simp [hp])]
    simp [beginEvents, eventsSoFar, hp]
  | drivesHigh hp =>
    refine traceConforms_of_next_event hs (by simp [hp]) rfl rfl rfl rfl ?_
      (fun w hw => by simpa [Running, hp] using hw) fun w hw => ?_
    · have hr : s.req = .none := by simpa [ReqOnlyInSpiPhase, hp, isSpiPhase] using hinv.1
      simp [eventsSoFar, reqLeft, driveCs_eq, hp, hr]
    · rw [commandEvents_of_running_begin hw (by simp [hp])]
      simp [beginEvents, eventsSoFar, hp]
  | drivesLow hp =>
    refine traceConforms_of_next_event hs (by simp [hp]) rfl rfl rfl rfl ?_
      (fun w hw => by simpa [Running, driveCs_eq, hp] using hw) fun w hw => ?_
    · have hr : s.req = .none := by simpa [ReqOnlyInSpiPhase, hp, isSpiPhase] using hinv.1
      simp [eventsSoFar, reqLeft, driveCs_eq, hp, hr]
    · rw [(commandEvents_of_running_write hinv hw (by simp [hp, isWritePhase])).1]
      simp [writeEvents, eventsSoFar, hp]
  | issues hr hreq =>
    exact traceConforms_of_next_event hs (phase_ne_idle_of_phaseRequest hr) rfl rfl rfl rfl
      (eventsSoFar_of_req_succ hr rfl (by simp [reqLeft, hreq])) (fun w => running_of_eq rfl rfl)
      fun w hw => (next_event_of_phaseRequest hinv hw hr).1 hreq
  | advances hp hreq =>
    refine traceConforms_of_continued hs (events := []) ?_ rfl rfl (by simp) fun w hw => ?_
    · rcases hp with ⟨hp, -⟩ | ⟨hp, -⟩ | ⟨hp, -⟩ | ⟨hp, -⟩ <;> simp [hp]
    · rcases hp with ⟨hp, rfl⟩ | ⟨hp, rfl⟩ | ⟨hp, rfl⟩ | ⟨hp, rfl⟩ <;>
        simpa [Running, eventsSoFar, reqLeft, hp, hreq] using hw
  | finishesBegin hp hreq =>
    refine traceConforms_of_completed hs (by simp [hp]) rfl rfl rfl rfl (by simp [isOwn])
      (fun w hw => .inl (by simpa [Running, hp] using hw)) fun w hw => ?_
    rw [commandEvents_of_running_begin hw (by simp [hp])]
    simp [beginEvents, eventsSoFar, reqLeft, hp, hreq]
  | finishesWrite hp =>
    have hphase : isWritePhase s.phase = true := by rw [hp]; rfl
    refine traceConforms_of_completed hs (by simp [hp]) rfl (hwrite hphase) rfl (List.append_assoc ..) (by simp [isOwn])
      (fun w hw => .inr (hwrite hphase)) fun w hw => ?_
    rw [(commandEvents_of_running_write hinv hw hphase).1]
    simp [writeEvents, eventsSoFar, hp]

theorem traceConforms_acknowledgeStep (hinv : Inv s) (hs : TraceConforms s) (h : AcknowledgeStep s t) :
    TraceConforms t := by
  cases h with
  | rests _ => exact hs
  | @grants r ho _ =>
    obtain ⟨hreq, hr⟩ := outstanding_eq_some.1 ho
    exact traceConforms_of_next_event hs (e := ⟨.spiCollaborator, .spiAck .thisBlock (requestOp r)⟩)
      (phase_ne_idle_of_phaseRequest hr) (by simp) (by rw [performOp_frame]; rfl) (by simp) rfl
      (eventsSoFar_of_req_succ hr (by simp) (by simp [reqLeft, hreq]))
      (fun w => running_of_eq (by rw [performOp_frame]; rfl) (by simp))
      fun w hw => (next_event_of_phaseRequest hinv hw hr).2 hreq

theorem traceConforms_resetStep (s : State) : TraceConforms (resetStep s) := by
  refine ⟨[], by simp, rfl, .inl ⟨rfl, ?_⟩⟩
  exact ownSinceReset_append_reset _

/-- Settles O57: the sequencer and this block's acknowledgements emit the next event of the running command, a reset begins
a new history, and no other agent's event is this block's. -/
theorem stepKeepsTraceConforming : Obligations.StepKeepsTraceConforming := by
  intro s t hinv hs h
  have hinv' : Inv (takeTurn s) := hinv
  have hs' : TraceConforms (takeTurn s) := hs
  rcases step_agents h with ⟨-, rfl⟩ | ⟨-, ⟨-, hstep⟩ | ⟨-, hstep⟩ | ⟨-, -, hstep⟩⟩
  · exact traceConforms_resetStep _
  · exact traceConforms_sequencerStep hinv' hs' hstep
  · exact traceConforms_acknowledgeStep hinv' hs' hstep
  · obtain ⟨new, htrace, hnew⟩ := hstep.trace
    exact traceConforms_of_registers hs' hstep.registers (by rw [htrace, ownSinceReset_append_other _ hnew])

end

end Sys2Proof.Proofs
end

section
/-! PROOFS. Over every step: who writes which register, the request port, the bits on the wire, a run that has ended well,
and the distance of a running command to its end. -/

namespace Sys2Proof.Proofs

open Sys2Proof.Machine Sys2Proof.Safety

section
variable {s t : State}

/-- The registers but `req` are the same in both states. -/
def SameRegisters (s t : State) : Prop :=
  t.cfg = s.cfg ∧ t.csOe = s.csOe ∧ t.csOut = s.csOut ∧ t.initialized = s.initialized ∧ t.fault = s.fault ∧
    t.frame = s.frame ∧ t.phase = s.phase

theorem SameRegisters.of_registers (h : registers t = registers s) : SameRegisters s t := by
  obtain ⟨-, hcfg, hoe, hout, hinit, hfault, hframe, hphase, -⟩ := registers_eq_iff.1 h
  exact ⟨hcfg, hoe, hout, hinit, hfault, hframe, hphase⟩

theorem sameRegisters_acknowledgeStep (h : AcknowledgeStep s t) : SameRegisters s t := by
  have hreg := registers_acknowledgeStep h
  simp only [registers, Registers.mk.injEq] at hreg
  obtain ⟨-, hcfg, hoe, hout, hinit, hfault, hframe, hphase, -⟩ := hreg
  exact ⟨hcfg, hoe, hout, hinit, hfault, hframe, hphase⟩

/-- The registers the sequencer writes, each in its phases and with its values (10_state.md §2). -/
def SequencerWrites (s t : State) : Prop :=
  (t.cfg = s.cfg ∨ (s.phase = .bSpiInit ∧ s.req = .ack ∧ t.cfg = cfgDac)) ∧
  (t.csOe = s.csOe ∨ (s.phase = .bPinMode ∧ t.csOe = true)) ∧
  (t.csOut = s.csOut ∨ (s.phase = .wCsLow ∧ t.csOut = false) ∨
    ((s.phase = .bSetHigh ∨ s.phase = .wCsHigh) ∧ t.csOut = true)) ∧
  (t.initialized = s.initialized ∨ (s.phase = .bSpiInit ∧ s.req = .ack ∧ t.initialized = true)) ∧
  (t.fault = s.fault ∨ (s.phase = .idle ∧ s.initialized = false ∧ t.fault = .writeBeforeBegin ∧ t.phase = .fault)) ∧
  (t.frame = s.frame ∨ (s.phase = .idle ∧ s.initialized = true ∧ t.phase = .wCsLow))

theorem SameRegisters.sequencerWrites (h : SameRegisters s t) : SequencerWrites s t := by
  obtain ⟨hcfg, hoe, hout, hinit, hfault, hframe, -⟩ := h
  exact ⟨.inl hcfg, .inl hoe, .inl hout, .inl hinit, .inl hfault, .inl hframe⟩

theorem sequencerWrites_sequencerStep (h : SequencerStep s t) : SequencerWrites s t := by
  cases h with
  | rests _ | acceptsBegin _ _ _ | issues _ _ | advances _ _ =>
    exact ⟨.inl rfl, .inl rfl, .inl rfl, .inl rfl, .inl rfl, .inl rfl⟩
  | acceptsWrite hp _ _ hi => exact ⟨.inl rfl, .inl rfl, .inl rfl, .inl rfl, .inl rfl, .inr ⟨hp, hi, rfl⟩⟩
  | faults hp _ _ hi => exact ⟨.inl rfl, .inl rfl, .inl rfl, .inl rfl, .inr ⟨hp, hi, rfl, rfl⟩, .inl rfl⟩
  | configuresOutput hp => exact ⟨.inl rfl, .inr ⟨hp, rfl⟩, .inl rfl, .inl rfl, .inl rfl, .inl rfl⟩
  | drivesHigh hp => exact ⟨.inl rfl, .inl rfl, .inr (.inr ⟨.inl hp, rfl⟩), .inl rfl, .inl rfl, .inl rfl⟩
  | drivesLow hp => exact ⟨.inl rfl, .inl rfl, .inr (.inl ⟨hp, rfl⟩), .inl rfl, .inl rfl, .inl rfl⟩
  | finishesBegin hp hr =>
    exact ⟨.inr ⟨hp, hr, rfl⟩, .inl rfl, .inl rfl, .inr ⟨hp, hr, rfl⟩, .inl rfl, .inl rfl⟩
  | finishesWrite hp => exact ⟨.inl rfl, .inl rfl, .inr (.inr ⟨.inr hp, rfl⟩), .inl rfl, .inl rfl, .inl rfl⟩

/-- A step that is neither a reset step nor the sequencer's leaves the registers but `req`. -/
theorem step_sameRegisters (h : step s = .next t) (hrst : (turnOf s).rst = false)
    (hm : (turnOf s).move ≠ .sequencer) : SameRegisters s t := by
  rcases step_agents h with ⟨hr, -⟩ | ⟨-, ⟨hseq, -⟩ | ⟨-, hstep⟩ | ⟨-, -, hstep⟩⟩
  · simp [hrst] at hr
  · exact absurd hseq hm
  · exact sameRegisters_acknowledgeStep (s := takeTurn s) hstep
  · exact .of_registers hstep.registers

/-- Settles O52: the sequencer's writes case by case; every other move leaves those registers. -/
theorem registerWriters : Obligations.RegisterWriters := by
  intro s t hrst h
  have hwrites : SequencerWrites s t := by
    by_cases hm : (turnOf s).move = .sequencer
    · rcases step_agents h with ⟨hr, -⟩ | ⟨-, ⟨-, hstep⟩ | ⟨hack, -⟩ | ⟨hne, -⟩⟩
      · simp [hrst] at hr
      · exact sequencerWrites_sequencerStep (s := takeTurn s) hstep
      · simp [hm] at hack
      · exact absurd hm hne
    · exact (step_sameRegisters h hrst hm).sequencerWrites
  obtain ⟨hcfg, hoe, hout, hinit, hfault, hframe⟩ := hwrites
  exact ⟨hcfg, hoe, hout, hinit, hfault, hframe, step_sameRegisters h hrst⟩

theorem sequencerEnabled_of_phaseRequest {r : Request} (hr : phaseRequest s = some r) :
    sequencerEnabled s = (s.req != .wait) := by
  cases hp : s.phase <;> simp_all [phaseRequest, sequencerEnabled]

theorem eq_of_sequencerStep_of_not_enabled (h : SequencerStep s t) (hen : sequencerEnabled s = false) : t = s := by
  cases h with
  | rests _ => rfl
  | issues hr hreq => simp [sequencerEnabled_of_phaseRequest hr, hreq] at hen
  | advances hp hreq =>
    rcases hp with ⟨hp, -⟩ | ⟨hp, -⟩ | ⟨hp, -⟩ | ⟨hp, -⟩ <;> simp [sequencerEnabled, hp, hreq] at hen
  | acceptsBegin hp hv _ | acceptsWrite hp hv _ _ | faults hp hv _ _ => simp [sequencerEnabled, hp, hv] at hen
  | finishesBegin hp hreq => simp [sequencerEnabled, hp, hreq] at hen
  | configuresOutput hp | drivesHigh hp | drivesLow hp | finishesWrite hp => simp [sequencerEnabled, hp] at hen

theorem acknowledgeEnabled_of_outstanding {r : Request} (ho : outstanding s = some r) :
    acknowledgeEnabled s = grantable .thisBlock r s := by
  simp only [acknowledgeEnabled, ho]

theorem eq_of_acknowledgeStep_of_not_enabled (h : AcknowledgeStep s t) (hen : acknowledgeEnabled s = false) :
    t = s := by
  cases h with
  | rests _ => rfl
  | grants ho hg => simp [acknowledgeEnabled_of_outstanding ho, hg] at hen

/-- In this turn an enabled step of the running command is taken: the sequencer's or this block's acknowledgement. -/
def TakesOwnStep (s : State) : Prop :=
  (turnOf s).move = .sequencer ∧ sequencerEnabled s = true ∨
    (turnOf s).move = .acknowledge .thisBlock ∧ acknowledgeEnabled s = true

/-- Any other step but a reset leaves every register. -/
theorem registers_of_not_takesOwnStep (h : step s = .next t) (hrst : (turnOf s).rst = false) (hown : ¬ TakesOwnStep s) :
    registers t = registers s := by
  rcases step_agents h with ⟨hr, -⟩ | ⟨-, ⟨hm, hstep⟩ | ⟨hm, hstep⟩ | ⟨-, -, hstep⟩⟩
  · simp [hrst] at hr
  · have hen : sequencerEnabled (takeTurn s) = false := by
      rw [← Bool.not_eq_true]
      exact fun hen => hown (.inl ⟨hm, hen⟩)
    rw [eq_of_sequencerStep_of_not_enabled hstep hen, registers_takeTurn]
  · have hen : acknowledgeEnabled (takeTurn s) = false := by
      rw [← Bool.not_eq_true]
      exact fun hen => hown (.inr ⟨hm, hen⟩)
    rw [eq_of_acknowledgeStep_of_not_enabled hstep hen, registers_takeTurn]
  · exact hstep.registers

-- The request port

/-- The instruction of a request. -/
def instrOf : Request → Instr
  | .spiInit => .spiInit
  | .spiBegin c => .spiBegin c
  | .spiXfer b => .spiXfer b
  | .spiEnd => .spiEnd

/-- In an SPI phase the port decodes to the phase's operation, with its argument (10_state.md R29). -/
theorem decodeRequest_requestPort {r : Request} (h : phaseRequest s = some r) :
    decodeRequest (requestPort s) = instrOf r := by
  cases hp : s.phase with
  | bSpiInit | wOpen | wXfer0 | wXfer1 | wClose =>
    obtain rfl : _ = r := by simpa only [phaseRequest, hp, Option.some.injEq] using h
    simp [requestPort, phaseRequest, hp, requestOp, spiOpCode, decodeRequest_zero, decodeRequest_one,
      decodeRequest_two, decodeRequest_three, unpackCfg_packCfg, instrOf]
  | idle | bPinMode | bSetHigh | wCsLow | wCsHigh | fault => simp [phaseRequest, hp] at h

theorem SameRegisters.requestPort_eq (h : SameRegisters s t) : requestPort t = requestPort s := by
  obtain ⟨hcfg, -, -, -, -, hframe, hphase⟩ := h
  simp only [requestPort, phaseRequest, hcfg, hframe, hphase]

theorem exists_outstanding_of_inv (hinv : Inv s) (hreq : s.req = .wait) : ∃ r, outstanding s = some r := by
  obtain ⟨hphase, -⟩ := waiting_of_inv hinv hreq
  cases hp : s.phase <;> simp_all [isSpiPhase, outstanding, spiReq, phaseRequest]

/-- Settles O15: the port is a function of registers that no step of a waiting block but a reset writes. -/
theorem requestPortStable : Obligations.RequestPortStable := by
  intro s hinv hreq
  obtain ⟨r, ho⟩ := exists_outstanding_of_inv hinv hreq
  refine ⟨⟨r, ho, ?_⟩, fun t h hrst => ?_⟩
  · exact (decodeRequest_requestPort (outstanding_eq_some.1 ho).2).trans (by cases r <;> rfl)
  · have hseq : sequencerEnabled s = false := (waiting_of_inv hinv hreq).sequencerEnabled_eq_false
    rcases step_agents h with ⟨hr, -⟩ | ⟨-, ⟨-, hstep⟩ | ⟨-, hstep⟩ | ⟨-, -, hstep⟩⟩
    · simp [hrst] at hr
    · rw [eq_of_sequencerStep_of_not_enabled hstep hseq]
      exact ⟨.inl hreq, rfl⟩
    · refine ⟨?_, (sameRegisters_acknowledgeStep hstep).requestPort_eq⟩
      cases hstep with
      | rests _ => exact .inl hreq
      | grants _ _ => exact .inr rfl
    · obtain ⟨-, -, -, -, -, -, -, -, hreq'⟩ := registers_eq_iff.1 hstep.registers
      exact ⟨.inl (hreq'.trans hreq), (SameRegisters.of_registers hstep.registers).requestPort_eq⟩

-- The bits on the wire

/-- From `s` to `t` no bit of this block is clocked. -/
def ClocksNoOwnBit (s t : State) : Prop :=
  ∃ items, t.wire = s.wire ++ items ∧ ∀ b, .bit .thisBlock b ∉ items

theorem lineLevel_of_csLow (h : s.csOe = true ∧ s.csOut = false) : lineLevel s = false := by
  rw [lineLevel, h.1, h.2]
  rfl

/-- Of this block's operations only XFER clocks its bits. -/
theorem clocksNoOwnBit_performOp {r : Request} (hr : ∀ b, r ≠ .spiXfer b) :
    ClocksNoOwnBit s (performOp .thisBlock r s) := by
  cases r with
  | spiInit | spiEnd => exact ⟨[], by simp [performOp], by simp⟩
  | spiBegin c => exact ⟨[.config c], rfl, by simp⟩
  | spiXfer b => exact absurd rfl (hr b)

theorem clocksNoOwnBit_sequencerStep (h : SequencerStep s t) : ClocksNoOwnBit s t := by
  cases h with
  | configuresOutput _ | drivesHigh _ | drivesLow _ | finishesWrite _ => exact ⟨[.cs _], rfl, by simp⟩
  | rests _ | acceptsBegin _ _ _ | acceptsWrite _ _ _ _ | faults _ _ _ _ | issues _ _ | advances _ _
  | finishesBegin _ _ => exact ⟨[], (List.append_nil _).symm, by simp⟩

/-- In a transfer phase CS is low and this block owns the bus (10_state.md R25, R31). -/
theorem transfer_of_inv (hinv : Inv s) (hp : s.phase = .wXfer0 ∨ s.phase = .wXfer1) :
    lineLevel s = false ∧ busOwner s = some .thisBlock := by
  obtain ⟨-, -, -, -, hheld, -⟩ := id hinv
  have hlow : isCsLowPhase s.phase = true := by rcases hp with hp | hp <;> rw [hp] <;> rfl
  have hhold : holdsBus s = true := by rcases hp with hp | hp <;> simp [holdsBus, hp]
  exact ⟨lineLevel_of_csLow (csLow_of_inv hinv hlow), by simp [busOwner, hheld hhold]⟩

/-- An XFER is requested only in a transfer phase (41_write.md R80, R81). -/
theorem phase_of_spiXfer {b : Byte} (h : phaseRequest s = some (.spiXfer b)) :
    s.phase = .wXfer0 ∨ s.phase = .wXfer1 := by
  cases hp : s.phase <;> simp_all [phaseRequest]

/-- Only the acknowledgement of an XFER of this block clocks bits of it. -/
theorem step_clocksNoOwnBit_or_transfers (h : step s = .next t) :
    ClocksNoOwnBit s t ∨ (∃ b, outstanding s = some (.spiXfer b)) ∧ t.phase = s.phase := by
  rcases step_agents h with ⟨-, rfl⟩ | ⟨-, ⟨-, hstep⟩ | ⟨-, hstep⟩ | ⟨-, -, hstep⟩⟩
  · exact .inl ⟨[.cs none], rfl, by simp⟩
  · exact .inl (clocksNoOwnBit_sequencerStep (s := takeTurn s) hstep)
  · obtain ⟨-, -, -, -, -, -, hphase⟩ := sameRegisters_acknowledgeStep hstep
    cases hstep with
    | rests _ => exact .inl ⟨[], by simp, by simp⟩
    | @grants r ho _ =>
      by_cases hx : ∃ b, r = .spiXfer b
      · obtain ⟨b, rfl⟩ := hx
        exact .inr ⟨⟨b, ho⟩, hphase⟩
      · exact .inl (clocksNoOwnBit_performOp (s := takeTurn s) fun b hb => hx ⟨b, hb⟩)
  · exact .inl hstep.wire

theorem performOp_wire_prefix (who : Requester) (r : Request) (s : State) : s.wire <+: (performOp who r s).wire := by
  cases r with
  | spiInit | spiEnd => exact List.prefix_rfl
  | spiBegin _ | spiXfer _ => exact List.prefix_append _ _

/-- The wire log only grows. -/
theorem step_wire_prefix (h : step s = .next t) : s.wire <+: t.wire := by
  rcases step_agents h with ⟨-, rfl⟩ | ⟨-, ⟨-, hstep⟩ | ⟨-, hstep⟩ | ⟨-, -, hstep⟩⟩
  · exact List.prefix_append _ _
  · obtain ⟨items, hwire, -⟩ := clocksNoOwnBit_sequencerStep hstep
    exact ⟨items, hwire.symm⟩
  · cases hstep with
    | rests _ => exact List.prefix_rfl
    | grants _ _ => exact performOp_wire_prefix _ _ (takeTurn s)
  · obtain ⟨items, hwire, -⟩ := hstep.wire
    exact ⟨items, hwire.symm⟩

/-- Settles O40: an XFER is acknowledged in a transfer phase, before and after which the invariant has CS low and the bus
owned. -/
theorem ownBitsUnderCsLow : Obligations.OwnBitsUnderCsLow := by
  intro s t hinv h
  have hinv' : Inv t := stepKeepsInvariant s t hinv h
  rcases step_clocksNoOwnBit_or_transfers h with ⟨items, hwire, hitems⟩ | ⟨⟨b, ho⟩, hphase⟩
  · exact ⟨items, hwire, fun ⟨b, hb⟩ => absurd hb (hitems b)⟩
  · obtain ⟨items, hitems⟩ := step_wire_prefix h
    have hp : s.phase = .wXfer0 ∨ s.phase = .wXfer1 := phase_of_spiXfer (outstanding_eq_some.1 ho).2
    obtain ⟨hlow, howner⟩ := transfer_of_inv hinv hp
    obtain ⟨hlow', howner'⟩ := transfer_of_inv hinv' (by rwa [hphase])
    exact ⟨items, hitems.symm, fun _ => ⟨hlow, hlow', howner, howner'⟩⟩

end

end Sys2Proof.Proofs
end

section
/-! PROOFS. Progress: a run that has ended well, the turns a running command still takes, and how it ends under the fairness
assumptions. -/

namespace Sys2Proof.Proofs

open Sys2Proof.Machine Sys2Proof.Safety

section
variable {s t : State}

-- A run that has ended well

/-- From `s` to `t` nothing is emitted for this block but resets. -/
def EmitsNothingOwn (s t : State) : Prop :=
  ∃ new, t.trace = s.trace ++ new ∧ ∀ e ∈ new, isOwn e = false

theorem EmitsNothingOwn.refl (s : State) : EmitsNothingOwn s s := ⟨[], by simp, by simp⟩

theorem EmitsNothingOwn.trans {u : State} (h : EmitsNothingOwn s t) (h' : EmitsNothingOwn t u) :
    EmitsNothingOwn s u := by
  obtain ⟨new, ht, hnew⟩ := h
  obtain ⟨new', hu, hnew'⟩ := h'
  exact ⟨new ++ new', by simp [hu, ht], fun e he => (List.mem_append.1 he).elim (hnew e) (hnew' e)⟩

theorem EnvironmentStep.emitsNothingOwn (h : EnvironmentStep s t) : EmitsNothingOwn s t := by
  obtain ⟨new, htrace, hnew⟩ := h.trace
  exact ⟨new, htrace, fun e he => (hnew e he).1⟩

@[simp] theorem answerForeign_cmdValid (user : Nat) (s : State) : (answerForeign user s).cmdValid = s.cmdValid := by
  rcases answerForeign_cases user s with ⟨r, -, -, h⟩ | h <;> rw [h]
  rw [performOp_frame]
  rfl

@[simp] theorem issueForeign_cmdValid (user : Nat) (r : Request) (s : State) :
    (issueForeign user r s).cmdValid = s.cmdValid := by
  rcases issueForeign_cases user r s with ⟨-, h⟩ | ⟨-, h⟩ <;> rw [h]
  rfl

/-- A good end has no command running or presented: neither the sequencer nor an acknowledgement has a step. -/
theorem not_enabled_of_endedWell (h : EndedWell s) : sequencerEnabled s = false ∧ acknowledgeEnabled s = false := by
  obtain ⟨hp, hr, -, -, hv⟩ := h
  exact ⟨by simp [sequencerEnabled, hp, hv], acknowledgeEnabled_of_outstanding_none (outstanding_of_req_none hr)⟩

/-- A good end is one while the host presents nothing, whatever the other agents do to the registers of the block. -/
theorem endedWell_of_registers (hs : EndedWell s) (hreg : registers t = registers s) (hv : t.cmdValid = false) :
    EndedWell t := by
  obtain ⟨hp, hr, hf, hhold, -⟩ := hs
  have hhold' := holdsBus_of_registers hreg
  obtain ⟨-, -, -, -, -, hfault, -, hphase, hreq⟩ := registers_eq_iff.1 hreg
  exact ⟨hphase.trans hp, hreq.trans hr, hfault.trans hf, hhold'.trans hhold, hv⟩

theorem step_keeps_endedWell (hs : EndedWell s) (h : step s = .next t) (hsilent : ¬ presents (turnOf s)) :
    EndedWell t ∧ EmitsNothingOwn s t := by
  have hu : EndedWell (takeTurn s) := hs
  have hv : s.cmdValid = false := hs.2.2.2.2
  obtain ⟨hseq, hack⟩ := not_enabled_of_endedWell hu
  change EndedWell t ∧ EmitsNothingOwn (takeTurn s) t
  rcases step_cases h with ⟨-, rfl⟩ | ⟨hrst, ⟨-, rfl⟩ | ⟨-, rfl⟩ | ⟨cmd, hm, -⟩ | ⟨-, rfl⟩ | ⟨user, -, rfl⟩ |
    ⟨user, r, -, rfl⟩ | ⟨user, -, rfl⟩⟩
  · exact ⟨⟨rfl, rfl, rfl, rfl, hv⟩, [⟨.reset, .reset⟩], rfl, by simp [isOwn]⟩
  · rw [sequencerNext_of_not_enabled hseq]
    exact ⟨hu, .refl _⟩
  · rw [acknowledgeNext_of_not_enabled hack]
    exact ⟨hu, .refl _⟩
  · exact absurd ⟨hrst, cmd, hm⟩ hsilent
  · exact ⟨endedWell_of_registers hu rfl rfl, .refl _⟩
  · exact ⟨endedWell_of_registers hu (by simp) (by simpa using hv),
      (environmentStep_answerForeign user _).emitsNothingOwn⟩
  · exact ⟨endedWell_of_registers hu (by simp) (by simpa using hv),
      (environmentStep_issueForeign user r _).emitsNothingOwn⟩
  · exact ⟨endedWell_of_registers hu rfl hv, (environmentStep_resetForeign user _).emitsNothingOwn⟩

theorem hostSilent_after_step {k : Nat} (h : HostSilent (k + 1) s) (hs : step s = .next t) : HostSilent k t :=
  fun j u hj hu => h (j + 1) u (by omega) ((runFor_succ j hs).trans hu)

end

/-- Settles O49: by induction on the steps, none of which has a command to run. -/
theorem endedWellStays : Obligations.EndedWellStays := by
  intro k
  induction k with
  | zero =>
    intro s t hs _ h
    obtain rfl := next_inj.1 h
    exact ⟨hs, EmitsNothingOwn.refl _⟩
  | succ k ih =>
    intro s t hs hsilent h
    obtain ⟨u, hstep, hrun⟩ := exists_step_of_runFor_succ h
    obtain ⟨hu, hsu⟩ := step_keeps_endedWell hs hstep (hsilent 0 s (by omega) rfl)
    obtain ⟨ht, hut⟩ := ih u t hu (hostSilent_after_step hsilent hstep) hrun
    exact ⟨ht, hsu.trans hut⟩

-- The turns a running command still takes

/-- The turns an SPI phase still takes: issue, acknowledge, consume. -/
def reqTurns : ReqState → List Turn
  | .none => spiTurns
  | .wait => [acknowledgeTurn, sequencerTurn]
  | .ack => [sequencerTurn]

/-- The turns of the running command's own steps, to its end (40_begin.md R62; 41_write.md R72). -/
def turnsLeft (s : State) : List Turn :=
  match s.phase with
  | .idle => []
  | .fault => []
  | .bPinMode => [sequencerTurn, sequencerTurn] ++ spiTurns
  | .bSetHigh => [sequencerTurn] ++ spiTurns
  | .bSpiInit => reqTurns s.req
  | .wCsLow => [sequencerTurn] ++ (spiTurns ++ (spiTurns ++ (spiTurns ++ (spiTurns ++ [sequencerTurn]))))
  | .wOpen => reqTurns s.req ++ (spiTurns ++ (spiTurns ++ (spiTurns ++ [sequencerTurn])))
  | .wXfer0 => reqTurns s.req ++ (spiTurns ++ (spiTurns ++ [sequencerTurn]))
  | .wXfer1 => reqTurns s.req ++ (spiTurns ++ [sequencerTurn])
  | .wClose => reqTurns s.req ++ [sequencerTurn]
  | .wCsHigh => [sequencerTurn]

section
variable {s t : State}

theorem length_turnsLeft (s : State) : (turnsLeft s).length = stepsLeft s := by
  have hreq : (reqTurns s.req).length = reqLeft s.req := by cases s.req <;> rfl
  unfold turnsLeft stepsLeft
  cases s.phase <;> simp [spiTurns, hreq]
  all_goals omega

theorem mem_turnsLeft {turn : Turn} (h : turn ∈ turnsLeft s) : turn = sequencerTurn ∨ turn = acknowledgeTurn := by
  have hspi : turn ∈ spiTurns → turn = sequencerTurn ∨ turn = acknowledgeTurn := by
    simp only [spiTurns, List.mem_cons, List.not_mem_nil]
    tauto
  have hreq : turn ∈ reqTurns s.req → turn = sequencerTurn ∨ turn = acknowledgeTurn := by
    cases s.req <;> simp only [reqTurns, spiTurns, List.mem_cons, List.not_mem_nil] <;> tauto
  unfold turnsLeft at h
  cases hp : s.phase <;> simp only [hp, List.mem_append, List.mem_cons, List.not_mem_nil] at h <;> tauto

theorem req_eq_none_of_inv (hinv : Inv s) (hp : isSpiPhase s.phase = false) : s.req = .none := by
  by_contra hr
  simp [hinv.1 hr] at hp

/-- An SPI phase's turns are led by the one in which its request goes on. -/
theorem turnsLeft_of_reqTurns {turn : Turn} {r : Request} (hr : phaseRequest s = some r) (hphase : t.phase = s.phase)
    (hreq : reqTurns s.req = turn :: reqTurns t.req) : turnsLeft s = turn :: turnsLeft t := by
  unfold turnsLeft
  rw [hphase]
  cases hp : s.phase with
  | bSpiInit | wOpen | wXfer0 | wXfer1 | wClose => simp [hreq]
  | idle | bPinMode | bSetHigh | wCsLow | wCsHigh | fault => simp [phaseRequest, hp] at hr

/-- An enabled step of the sequencer is the next of the running command's turns. -/
theorem turnsLeft_sequencerStep (hinv : Inv s) (hrun : s.phase ≠ .idle) (hen : sequencerEnabled s = true)
    (h : SequencerStep s t) : turnsLeft s = sequencerTurn :: turnsLeft t := by
  cases h with
  | rests hdis => simp [hen] at hdis
  | acceptsBegin hp _ _ | acceptsWrite hp _ _ _ | faults hp _ _ _ => exact absurd hp hrun
  | issues hr hreq => exact turnsLeft_of_reqTurns hr rfl (by rw [hreq]; rfl)
  | advances hp hreq =>
    rcases hp with ⟨hp, rfl⟩ | ⟨hp, rfl⟩ | ⟨hp, rfl⟩ | ⟨hp, rfl⟩ <;> simp [turnsLeft, reqTurns, hp, hreq]
  | configuresOutput hp | finishesWrite hp => simp [turnsLeft, hp]
  | finishesBegin hp hreq => simp [turnsLeft, reqTurns, hp, hreq]
  | drivesHigh hp | drivesLow hp =>
    have hr : s.req = .none := req_eq_none_of_inv hinv (by rw [hp]; rfl)
    simp [turnsLeft, reqTurns, driveCs_eq, hp, hr]

/-- An enabled acknowledgement is the next of the running command's turns. -/
theorem turnsLeft_acknowledgeStep (hen : acknowledgeEnabled s = true) (h : AcknowledgeStep s t) :
    turnsLeft s = acknowledgeTurn :: turnsLeft t := by
  cases h with
  | rests hdis => simp [hen] at hdis
  | grants ho _ =>
    obtain ⟨hreq, hr⟩ := outstanding_eq_some.1 ho
    exact turnsLeft_of_reqTurns hr (by simp) (by rw [hreq]; rfl)

theorem phase_ne_idle_of_stepsLeft_pos (h : 0 < stepsLeft s) : s.phase ≠ .idle := by
  intro hp
  simp [stepsLeft, hp] at h

theorem stepsLeft_of_registers (hreg : registers t = registers s) : stepsLeft t = stepsLeft s := by
  obtain ⟨-, -, -, -, -, -, -, hphase, hreq⟩ := registers_eq_iff.1 hreg
  rw [stepsLeft, hphase, hreq]
  rfl

/-- A waiting acknowledgement is enabled, but for a BEGIN while somebody owns the bus: XFER and END are requested only of a
bus the block holds (10_state.md R25). -/
theorem acknowledgeEnabled_of_waiting (hinv : Inv s) (hreq : s.req = .wait) :
    acknowledgeEnabled s = true ∨ (s.phase = .wOpen ∧ s.bus ≠ none) := by
  obtain ⟨-, -, -, -, hheld, -⟩ := id hinv
  obtain ⟨r, ho⟩ := exists_outstanding_of_inv hinv hreq
  obtain ⟨-, hr⟩ := outstanding_eq_some.1 ho
  rw [acknowledgeEnabled_of_outstanding ho]
  cases hp : s.phase with
  | bSpiInit =>
    obtain rfl : _ = r := by simpa only [phaseRequest, hp, Option.some.injEq] using hr
    exact .inl rfl
  | wOpen =>
    obtain rfl : _ = r := by simpa only [phaseRequest, hp, Option.some.injEq] using hr
    cases hb : s.bus <;> simp [grantable, hb]
  | wXfer0 | wXfer1 | wClose =>
    obtain rfl : _ = r := by simpa only [phaseRequest, hp, Option.some.injEq] using hr
    have hb := hheld (by simp [holdsBus, hp, hreq])
    exact .inl (by simp [grantable, busOwner, hb])
  | idle | bPinMode | bSetHigh | wCsLow | wCsHigh | fault => simp [phaseRequest, hp] at hr

/-- A running command whose request is not outstanding has a step of the sequencer. -/
theorem sequencerEnabled_of_running (hrun : 0 < stepsLeft s) (hreq : s.req ≠ .wait) : sequencerEnabled s = true := by
  cases hp : s.phase <;> simp_all [stepsLeft, sequencerEnabled]

theorem running_enabled (hinv : Inv s) (hrun : 0 < stepsLeft s) :
    sequencerEnabled s = true ∨ acknowledgeEnabled s = true ∨ (s.phase = .wOpen ∧ s.req = .wait ∧ s.bus ≠ none) := by
  by_cases hreq : s.req = .wait
  · exact .inr ((acknowledgeEnabled_of_waiting hinv hreq).imp_right fun ⟨hp, hb⟩ => ⟨hp, hreq, hb⟩)
  · exact .inl (sequencerEnabled_of_running hrun hreq)

/-- A step of its own brings a running command one nearer to its end. -/
theorem stepsLeft_of_takesOwnStep (hinv : Inv s) (hrun : 0 < stepsLeft s) (h : step s = .next t)
    (hrst : (turnOf s).rst = false) (hown : TakesOwnStep s) : stepsLeft t + 1 = stepsLeft s := by
  rw [← length_turnsLeft, ← length_turnsLeft]
  have hidle := phase_ne_idle_of_stepsLeft_pos hrun
  rcases step_agents h with ⟨hr, -⟩ | ⟨-, ⟨hm, hstep⟩ | ⟨hm, hstep⟩ | ⟨hm, hm', -⟩⟩
  · simp [hrst] at hr
  · rcases hown with ⟨-, hen⟩ | ⟨hm', -⟩
    · exact (congrArg List.length (turnsLeft_sequencerStep (s := takeTurn s) hinv hidle hen hstep)).symm
    · simp [hm] at hm'
  · rcases hown with ⟨hm', -⟩ | ⟨-, hen⟩
    · simp [hm] at hm'
    · exact (congrArg List.length (turnsLeft_acknowledgeStep (s := takeTurn s) hen hstep)).symm
  · rcases hown with ⟨hs, -⟩ | ⟨hs, -⟩
    · exact absurd hs hm
    · exact absurd hs hm'

/-- Settles O58: an own step takes the first of the turns left, and any other leaves the registers. -/
theorem everyStepCounts : Obligations.EveryStepCounts := by
  intro s hinv hrun
  exact ⟨running_enabled hinv hrun, fun t h hrst hown => stepsLeft_of_takesOwnStep hinv hrun h hrst hown,
    fun t h hrst hown => stepsLeft_of_registers (registers_of_not_takesOwnStep h hrst hown)⟩

-- A running command can run to its end

/-- The command has yet to be granted the bus: a WRITE in W_CSLOW, or in W_OPEN before its acknowledgement. -/
def YetToOpen (s : State) : Prop :=
  s.phase = .wCsLow ∨ s.phase = .wOpen ∧ s.req ≠ .ack

/-- A command that needs the bus no more, holds it or finds it free; or one that has ended well. -/
structure CanRunOut (s : State) : Prop where
  inv : Inv s
  free : YetToOpen s → s.bus = none
  ended : stepsLeft s = 0 → s.phase = .idle ∧ s.initialized = true

theorem schedule_sequencerStep (h : SequencerStep s t) : t.schedule = s.schedule := by
  cases h <;> rfl

theorem schedule_acknowledgeStep (h : AcknowledgeStep s t) : t.schedule = s.schedule := by
  cases h with
  | rests _ => rfl
  | grants _ _ => rw [performOp_frame]; rfl

/-- A running command comes to W_CSLOW never, and to W_OPEN from W_CSLOW. -/
theorem yetToOpen_of_sequencerStep (hrun : s.phase ≠ .idle) (h : SequencerStep s t) (ht : YetToOpen t) :
    YetToOpen s := by
  cases h with
  | rests _ => exact ht
  | acceptsBegin hp _ _ | acceptsWrite hp _ _ _ | faults hp _ _ _ => exact absurd hp hrun
  | drivesLow hp => exact .inl hp
  | issues hr hreq =>
    rcases ht with hp | ⟨hp, -⟩
    · exact .inl hp
    · exact .inr ⟨hp, by simp [hreq]⟩
  | advances hp _ => rcases hp with ⟨-, rfl⟩ | ⟨-, rfl⟩ | ⟨-, rfl⟩ | ⟨-, rfl⟩ <;> simp [YetToOpen] at ht
  | configuresOutput _ | drivesHigh _ | finishesBegin _ _ | finishesWrite _ => simp [YetToOpen] at ht

theorem stepsLeft_eq_zero : stepsLeft s = 0 ↔ s.phase = .idle ∨ s.phase = .fault := by
  have hreq : 0 < reqLeft s.req := by cases s.req <;> decide
  cases hp : s.phase <;> simp [stepsLeft, hp]
  omega

/-- A step of a running command that ends it leaves the block idle and initialised. -/
theorem ended_of_sequencerStep (hinv : Inv s) (hrun : 0 < stepsLeft s) (h : SequencerStep s t) (ht : stepsLeft t = 0) :
    t.phase = .idle ∧ t.initialized = true := by
  have hidle := phase_ne_idle_of_stepsLeft_pos hrun
  obtain ⟨-, hwrite, -⟩ := hinv
  cases h with
  | finishesBegin _ _ => exact ⟨rfl, rfl⟩
  | finishesWrite hp => exact ⟨rfl, hwrite (by rw [hp]; rfl)⟩
  | rests _ => omega
  | acceptsBegin hp _ _ | acceptsWrite hp _ _ _ | faults hp _ _ _ => exact absurd hp hidle
  | issues hr _ =>
    have hended := stepsLeft_eq_zero.1 ht
    exact absurd ((stepsLeft_eq_zero (s := s)).2 hended) (by omega)
  | advances hp _ => rcases hp with ⟨-, rfl⟩ | ⟨-, rfl⟩ | ⟨-, rfl⟩ | ⟨-, rfl⟩ <;> simp [stepsLeft_eq_zero] at ht
  | configuresOutput _ | drivesHigh _ | drivesLow _ => simp [stepsLeft_eq_zero] at ht

/-- The sequencer's turn of a command that can run out. -/
theorem canRunOut_sequencerStep (hs : CanRunOut s) (hrun : 0 < stepsLeft s) (h : SequencerStep s t) (hinv : Inv t) :
    CanRunOut t where
  inv := hinv
  free ht := by
    rw [bus_sequencerStep h]
    exact hs.free (yetToOpen_of_sequencerStep (phase_ne_idle_of_stepsLeft_pos hrun) h ht)
  ended := ended_of_sequencerStep hs.inv hrun h

/-- Its acknowledgement, after which it waits for the bus no more. -/
theorem canRunOut_acknowledgeStep (hs : CanRunOut s) (hrun : 0 < stepsLeft s) (h : AcknowledgeStep s t) (hinv : Inv t) :
    CanRunOut t := by
  have hphase : t.phase = s.phase := (sameRegisters_acknowledgeStep h).2.2.2.2.2.2
  refine ⟨hinv, fun ht => ?_, fun ht => ?_⟩
  · cases h with
    | rests _ => exact hs.free ht
    | grants ho _ =>
      obtain ⟨-, hr⟩ := outstanding_eq_some.1 ho
      rcases ht with hp | ⟨-, hne⟩
      · simp [phaseRequest, hphase.symm.trans hp] at hr
      · exact absurd rfl hne
  · rw [stepsLeft_eq_zero, hphase, ← stepsLeft_eq_zero] at ht
    omega

/-- The next of a running command's turns leads on to the turns left after it. -/
theorem exists_step_of_turnsLeft {rest : List Turn} (hs : CanRunOut s) (hrun : 0 < stepsLeft s)
    (hsched : s.schedule = turnsLeft s ++ rest) :
    ∃ t, step s = .next t ∧ CanRunOut t ∧ stepsLeft t + 1 = stepsLeft s ∧ t.schedule = turnsLeft t ++ rest := by
  have hu : CanRunOut (takeTurn s) := ⟨hs.inv, hs.free, hs.ended⟩
  have hkeep {t : State} (h : step s = .next t) : Inv t := stepKeepsInvariant s t hs.inv h
  have hcount {turn : Turn} {t : State} (h : turnsLeft s = turn :: turnsLeft t) : stepsLeft t + 1 = stepsLeft s := by
    rw [← length_turnsLeft, ← length_turnsLeft, h, List.length_cons]
  have hnext {turn : Turn} {t : State} (h : turnsLeft s = turn :: turnsLeft t) (ht : t.schedule = s.schedule.tail) :
      t.schedule = turnsLeft t ++ rest := by
    rw [ht, hsched, h]
    rfl
  have henabled : sequencerEnabled s = true ∨ acknowledgeEnabled s = true := by
    rcases running_enabled hs.inv hrun with h | h | ⟨hp, hr, hb⟩
    · exact .inl h
    · exact .inr h
    · exact absurd (hs.free (.inr ⟨hp, by simp [hr]⟩)) hb
  rcases henabled with hen | hen
  · have hstep := sequencerStep_sequencerNext (takeTurn s)
    have hturns : turnsLeft s = _ :: _ :=
      turnsLeft_sequencerStep (s := takeTurn s) hs.inv (phase_ne_idle_of_stepsLeft_pos hrun) hen hstep
    have h := step_sequencerTurn (hsched.trans (congrArg (· ++ rest) hturns))
    exact ⟨_, h, canRunOut_sequencerStep hu hrun hstep (hkeep h), hcount hturns,
      hnext hturns (schedule_sequencerStep hstep)⟩
  · have hstep := acknowledgeStep_acknowledgeNext (takeTurn s)
    have hturns : turnsLeft s = _ :: _ := turnsLeft_acknowledgeStep (s := takeTurn s) hen hstep
    have h := step_acknowledgeTurn (hsched.trans (congrArg (· ++ rest) hturns))
    exact ⟨_, h, canRunOut_acknowledgeStep hu hrun hstep (hkeep h), hcount hturns,
      hnext hturns (schedule_acknowledgeStep hstep)⟩

/-- With these turns next the command runs to its end. -/
theorem run_turnsLeft (k : Nat) {rest : List Turn} (hs : CanRunOut s) (hk : stepsLeft s = k)
    (hsched : s.schedule = turnsLeft s ++ rest) :
    ∃ t, runFor k s = .next t ∧ CanRunOut t ∧ stepsLeft t = 0 ∧ t.schedule = rest := by
  induction k generalizing s with
  | zero =>
    have hnone : turnsLeft s = [] := List.eq_nil_of_length_eq_zero ((length_turnsLeft s).trans hk)
    exact ⟨s, rfl, hs, hk, by simpa [hnone] using hsched⟩
  | succ k ih =>
    obtain ⟨u, hstep, hu, hcount, hsched'⟩ := exists_step_of_turnsLeft hs (by omega) hsched
    obtain ⟨t, hrun, ht⟩ := ih hu (by omega) hsched'
    exact ⟨t, (runFor_succ k hstep).trans hrun, ht⟩

/-- An idle block has no request and no fault, and once initialised drives CS high (10_state.md §10). -/
theorem idle_of_inv (hinv : Inv s) (hp : s.phase = .idle) (hi : s.initialized = true) :
    s.req = .none ∧ s.fault = .none ∧ s.csOe = true ∧ s.csOut = true := by
  obtain ⟨-, -, hcs, -, -, -, ⟨hfault, -⟩, -⟩ := id hinv
  obtain ⟨hoe, hout⟩ := hcs hi
  refine ⟨req_eq_none_of_inv hinv (by rw [hp]; rfl), ?_, hoe, ?_⟩
  · by_contra hne
    simp [hp] at hfault
    exact hne hfault
  · simpa [hp, isCsLowPhase] using hout

end

/-- Settles O59: the turns left are the running command's own, and each leads on to the turns left after it. -/
theorem commandCompletes : Obligations.CommandCompletes := by
  intro s rest hinv hrun hfree
  refine ⟨turnsLeft s, length_turnsLeft s, fun _ => mem_turnsLeft, ?_⟩
  have hs : CanRunOut { s with schedule := turnsLeft s ++ rest } :=
    ⟨hinv, hfree, fun h => absurd h (Nat.ne_of_gt hrun)⟩
  obtain ⟨t, h, ⟨hinv', -, hended⟩, hzero, hrest⟩ := run_turnsLeft (stepsLeft s) hs rfl rfl
  obtain ⟨hp, hi⟩ := hended hzero
  obtain ⟨hr, hf, hoe, hout⟩ := idle_of_inv hinv' hp hi
  exact ⟨t, h, hp, hr, hf, hi, hoe, hout, hrest⟩

end Sys2Proof.Proofs
end

section
/-! PROOFS. Infinite runs: a command that never ends is stuck in W_OPEN while others own the bus
(70_reset_and_hazards.md R127). -/

namespace Sys2Proof.Proofs

open Sys2Proof.Machine Sys2Proof.Safety

section
variable {s t : State}

theorem step_keeps_busInv {q : Prop} (hinv : Inv s) (hs : BusInv q s) (h : step s = .next t)
    (hrst : (turnOf s).rst = false) : BusInv q t := by
  have hu : BusInv q (takeTurn s) := hs
  rcases step_agents h with ⟨hr, -⟩ | ⟨-, ⟨-, hstep⟩ | ⟨-, hstep⟩ | ⟨-, -, hstep⟩⟩
  · simp [hrst] at hr
  · exact busInv_sequencerStep hu hinv.1 hstep
  · exact busInv_acknowledgeStep hu hstep
  · exact busInv_environmentStep hu hstep

/-- When no own step is taken, who takes a free bus is a foreign user. -/
theorem foreign_takes_bus (h : step s = .next t) (hrst : (turnOf s).rst = false) (hown : ¬ TakesOwnStep s)
    (hfree : s.bus = none) (htaken : t.bus ≠ none) : ∃ user, busOwner t = some (.foreign user) := by
  rcases step_agents h with ⟨hr, -⟩ | ⟨-, ⟨-, hstep⟩ | ⟨hm, hstep⟩ | ⟨-, -, hstep⟩⟩
  · simp [hrst] at hr
  · exact absurd ((bus_sequencerStep hstep).trans hfree) htaken
  · have hen : acknowledgeEnabled (takeTurn s) = false := by
      rw [← Bool.not_eq_true]
      exact fun hen => hown (.inr ⟨hm, hen⟩)
    rw [eq_of_acknowledgeStep_of_not_enabled hstep hen] at htaken
    exact absurd hfree htaken
  · have hbus : ForeignBusStep none t.bus := hfree ▸ hstep.bus
    unfold busOwner
    generalize t.bus = bus at *
    cases hbus with
    | keeps => exact absurd rfl htaken
    | takes user c => exact ⟨user, rfl⟩

end

/-- An infinite run that no reset of this block interrupts from step `n` on, from a state in which the block owns the bus
only if it holds it. -/
structure Uninterrupted (turns : Nat → Turn) (run : Nat → State) (n : Nat) : Prop where
  steps : RunUnder turns run
  inv : Inv (run n)
  held : busOwner (run n) = some .thisBlock → holdsBus (run n) = true
  noReset : ∀ m, n ≤ m → (turns m).rst = false

/-- The state with this turn next, and none after it. -/
def withTurn (turn : Turn) (s : State) : State :=
  { s with schedule := [turn] }

/-- In step `m` of the run an enabled step of the running command is taken. -/
def OwnStepAt (turns : Nat → Turn) (run : Nat → State) (m : Nat) : Prop :=
  TakesOwnStep (withTurn (turns m) (run m))

section
variable {turns : Nat → Turn} {run : Nat → State} {n : Nat}

theorem Uninterrupted.inv_at (hrun : Uninterrupted turns run n) {m : Nat} (hm : n ≤ m) :
    Inv (run m) ∧ BusInv False (run m) := by
  induction m, hm using Nat.le_induction with
  | base =>
    obtain ⟨-, -, ⟨hheld, -⟩, -⟩ := inv_iff_parts.1 hrun.inv
    exact ⟨hrun.inv, hheld, fun ho => .inl (hrun.held ho)⟩
  | succ m hm ih =>
    obtain ⟨hinv, hbus⟩ := ih
    have hstep : step (withTurn (turns m) (run m)) = .next (run (m + 1)) := hrun.steps m
    exact ⟨stepKeepsInvariant (withTurn (turns m) (run m)) _ hinv hstep,
      step_keeps_busInv (s := withTurn (turns m) (run m)) hinv hbus hstep (hrun.noReset m hm)⟩

theorem Uninterrupted.registers_of_not_own (hrun : Uninterrupted turns run n) {m : Nat} (hm : n ≤ m)
    (hown : ¬ OwnStepAt turns run m) : registers (run (m + 1)) = registers (run m) :=
  registers_of_not_takesOwnStep (s := withTurn (turns m) (run m)) (hrun.steps m) (hrun.noReset m hm) hown

theorem Uninterrupted.stepsLeft_of_own (hrun : Uninterrupted turns run n) {m : Nat} (hm : n ≤ m)
    (hpos : 0 < stepsLeft (run m)) (hown : OwnStepAt turns run m) :
    stepsLeft (run (m + 1)) + 1 = stepsLeft (run m) :=
  stepsLeft_of_takesOwnStep (s := withTurn (turns m) (run m)) (hrun.inv_at hm).1 hpos (hrun.steps m)
    (hrun.noReset m hm) hown

/-- A command that never ends takes its last own step at some time, and its registers stay from then on. -/
theorem Uninterrupted.eventually_stuck (hrun : Uninterrupted turns run n)
    (hnever : ∀ m, n ≤ m → 0 < stepsLeft (run m)) :
    ∃ N, n ≤ N ∧ ∀ m, N ≤ m → registers (run m) = registers (run N) ∧ ¬ OwnStepAt turns run m := by
  obtain ⟨N, hN, hmin⟩ := (measure fun m => stepsLeft (run m)).wf.has_min {m | n ≤ m} ⟨n, le_refl n⟩
  have hN' : n ≤ N := hN
  have hleast {m : Nat} (hm : N ≤ m) : stepsLeft (run N) ≤ stepsLeft (run m) :=
    not_lt.1 (hmin m (hN'.trans hm))
  have hnone {m : Nat} (hm : N ≤ m) (hreg : registers (run m) = registers (run N)) : ¬ OwnStepAt turns run m := by
    intro hown
    have hcount := hrun.stepsLeft_of_own (hN'.trans hm) (hnever m (hN'.trans hm)) hown
    have hsame := stepsLeft_of_registers hreg
    have hle : stepsLeft (run N) ≤ stepsLeft (run (m + 1)) := hleast (Nat.le_succ_of_le hm)
    omega
  refine ⟨N, hN', fun m hm => ?_⟩
  have hreg : registers (run m) = registers (run N) := by
    induction m, hm using Nat.le_induction with
    | base => rfl
    | succ m hm ih => exact (hrun.registers_of_not_own (hN'.trans hm) (hnone hm ih)).trans ih
  exact ⟨hreg, hnone hm hreg⟩

/-- From step `N` on the block waits in W_OPEN for the bus, and no step of it is taken. -/
def WaitsFrom (turns : Nat → Turn) (run : Nat → State) (N : Nat) : Prop :=
  ∀ m, N ≤ m → (run m).phase = .wOpen ∧ (run m).req = .wait ∧ ¬ OwnStepAt turns run m

/-- A command that never ends comes to wait for the bus for ever: anywhere else it has an own step that stays enabled, and
is taken by the fairness of the sequencer or of the collaborator. -/
theorem Uninterrupted.eventually_waits (hrun : Uninterrupted turns run n)
    (hcollaborator : CollaboratorWeaklyFair turns run) (hsequencer : SequencerWeaklyFair turns run)
    (hnever : ∀ m, n ≤ m → 0 < stepsLeft (run m)) : ∃ N, n ≤ N ∧ WaitsFrom turns run N := by
  obtain ⟨N, hN, hstuck⟩ := hrun.eventually_stuck hnever
  have hsame {m : Nat} (hm : N ≤ m) : (run m).phase = (run N).phase ∧ (run m).req = (run N).req := by
    obtain ⟨-, -, -, -, -, -, -, hphase, hreq⟩ := registers_eq_iff.1 (hstuck m hm).1
    exact ⟨hphase, hreq⟩
  have hwait : (run N).req = .wait := by
    by_contra hreq
    have henabled (m : Nat) (hm : N ≤ m) : sequencerEnabled (run m) = true :=
      sequencerEnabled_of_running (hnever m (hN.trans hm)) (by rwa [(hsame hm).2])
    obtain ⟨m, hm, hturn⟩ := hsequencer N henabled
    exact (hstuck m hm).2 (.inl ⟨congrArg Turn.move hturn, henabled m hm⟩)
  have hopen : (run N).phase = .wOpen := by
    by_contra hphase
    have henabled (m : Nat) (hm : N ≤ m) : acknowledgeEnabled (run m) = true := by
      obtain ⟨hphase', hreq'⟩ := hsame hm
      exact (acknowledgeEnabled_of_waiting (hrun.inv_at (hN.trans hm)).1 (hreq'.trans hwait)).resolve_right
        fun h => hphase (hphase'.symm.trans h.1)
    obtain ⟨m, hm, hturn⟩ := hcollaborator .thisBlock N henabled
    exact (hstuck m hm).2 (.inr ⟨congrArg Turn.move hturn, henabled m hm⟩)
  exact ⟨N, hN, fun m hm => ⟨(hsame hm).1.trans hopen, (hsame hm).2.trans hwait, (hstuck m hm).2⟩⟩

section
variable {N : Nat}

/-- While the block waits, an acknowledgement is enabled whenever the bus is free. -/
theorem WaitsFrom.acknowledgeEnabled (hwait : WaitsFrom turns run N) (hrun : Uninterrupted turns run n) (hN : n ≤ N)
    {m : Nat} (hm : N ≤ m) (hfree : (run m).bus = none) : Safety.acknowledgeEnabled (run m) = true :=
  (acknowledgeEnabled_of_waiting (hrun.inv_at (hN.trans hm)).1 (hwait m hm).2.1).resolve_right fun h => h.2 hfree

/-- No acknowledgement of the block is taken when it is enabled. -/
theorem WaitsFrom.not_acknowledged (hwait : WaitsFrom turns run N) {m : Nat} (hm : N ≤ m)
    (hen : Safety.acknowledgeEnabled (run m) = true) : turns m ≠ acknowledgeTurn :=
  fun hturn => (hwait m hm).2.2 (.inr ⟨congrArg Turn.move hturn, hen⟩)

/-- While the block waits the bus is free again and again: who owns it is a foreign user, which finishes. -/
theorem WaitsFrom.free_again (hwait : WaitsFrom turns run N) (hrun : Uninterrupted turns run n) (hN : n ≤ N)
    (hfinish : ForeignUsersFinish run) {m : Nat} (hm : N ≤ m) : ∃ k, m ≤ k ∧ (run k).bus = none := by
  cases hb : (run m).bus with
  | none => exact ⟨m, le_rfl, hb⟩
  | some transaction =>
    refine hfinish m transaction hb fun howner => ?_
    obtain ⟨hphase, hreq, -⟩ := hwait m hm
    have hhold := ((hrun.inv_at (hN.trans hm)).2.2 (by rw [busOwner, hb, ← howner]; rfl)).resolve_right id
    simp [holdsBus, hphase, hreq] at hhold

/-- A free bus does not stay free: the acknowledgement would stay enabled, and be taken. -/
theorem WaitsFrom.taken_again (hwait : WaitsFrom turns run N) (hrun : Uninterrupted turns run n) (hN : n ≤ N)
    (hcollaborator : CollaboratorWeaklyFair turns run) {m : Nat} (hm : N ≤ m) (hfree : (run m).bus = none) :
    ∃ k, m ≤ k ∧ (run k).bus = none ∧ (run (k + 1)).bus ≠ none := by
  by_contra hstays
  push Not at hstays
  have hall (k : Nat) (hk : m ≤ k) : (run k).bus = none := by
    induction k, hk using Nat.le_induction with
    | base => exact hfree
    | succ k hk ih => exact hstays k hk ih
  have henabled (k : Nat) (hk : m ≤ k) : Safety.acknowledgeEnabled (run k) = true :=
    hwait.acknowledgeEnabled hrun hN (hm.trans hk) (hall k hk)
  obtain ⟨k, hk, hturn⟩ := hcollaborator .thisBlock m henabled
  exact hwait.not_acknowledged (hm.trans hk) (henabled k hk) hturn

end

theorem stepsLeft_pos_of_never (hnever : ¬ ∃ m, n ≤ m ∧ ((run m).phase = .idle ∨ (run m).phase = .fault)) :
    ∀ m, n ≤ m → 0 < stepsLeft (run m) :=
  fun m hm => Nat.pos_of_ne_zero fun hzero => hnever ⟨m, hm, stepsLeft_eq_zero.1 hzero⟩

end

/-- Settles O60: a command that never ends waits in W_OPEN for ever, where the bus is free again and again, each time to be
taken by a foreign user; and the stronger fairness takes the acknowledgement at one of these times. -/
theorem fairCommandsEnd : Obligations.FairCommandsEnd := by
  intro turns run n hsteps hinv hheld hnoReset hcollaborator hfinish hsequencer
  have hrun : Uninterrupted turns run n := ⟨hsteps, hinv, hheld, hnoReset⟩
  constructor
  · by_cases hend : ∃ m, n ≤ m ∧ ((run m).phase = .idle ∨ (run m).phase = .fault)
    · exact .inl hend
    obtain ⟨N, hN, hwait⟩ := hrun.eventually_waits hcollaborator hsequencer (stepsLeft_pos_of_never hend)
    refine .inr fun m _ => ?_
    obtain ⟨j, hj, hfree⟩ := hwait.free_again hrun hN hfinish (le_max_right m N)
    have hNj : N ≤ j := (le_max_right m N).trans hj
    obtain ⟨k, hk, hfree, htaken⟩ := hwait.taken_again hrun hN hcollaborator hNj hfree
    obtain ⟨hphase, hreq, hown⟩ := hwait k (hNj.trans hk)
    exact ⟨k, (le_max_left m N).trans (hj.trans hk), hphase, hreq, hfree,
      foreign_takes_bus (s := withTurn (turns k) (run k)) (hsteps k) (hnoReset k (hN.trans (hNj.trans hk)))
        hown hfree htaken⟩
  · intro hstrong
    by_contra hend
    obtain ⟨N, hN, hwait⟩ := hrun.eventually_waits hcollaborator hsequencer (stepsLeft_pos_of_never hend)
    have hagain (m : Nat) (hm : N ≤ m) : ∃ k, m ≤ k ∧ acknowledgeEnabled (run k) = true := by
      obtain ⟨k, hk, hfree⟩ := hwait.free_again hrun hN hfinish hm
      exact ⟨k, hk, hwait.acknowledgeEnabled hrun hN (hm.trans hk) hfree⟩
    obtain ⟨m, hm, hen, hturn⟩ := hstrong N hagain
    exact hwait.not_acknowledged hm hen hturn

end Sys2Proof.Proofs
end

section
/-! PROOFS. Single micro-steps: what a command's micro-step leaves unchanged, acceptance of WRITE, the collaborator's
operations one by one, and what each mover fetches. -/

namespace Sys2Proof.Proofs

open Sys2Proof.Machine Sys2Proof.Safety

section
variable {s t : State}

/-- Outside IDLE and its own phases a BEGIN changes nothing (10_state.md R26; 60_exceptions.md R111). -/
theorem exec_beginCmd_waits (ignored : BitVec 20) (h : isWritePhase s.phase = true ∨ s.phase = .fault) :
    exec (.beginCmd ignored) s = .next s := by
  cases hp : s.phase with
  | wCsLow | wOpen | wXfer0 | wXfer1 | wClose | wCsHigh | fault => simp only [exec, execBegin, hp]
  | idle | bPinMode | bSetHigh | bSpiInit => simp [hp, isWritePhase] at h

/-- Outside IDLE and its own phases a WRITE changes nothing. -/
theorem exec_writeCmd_waits (ch buf g1x act : Bool) (value : BitVec 16)
    (h : s.phase = .bPinMode ∨ s.phase = .bSetHigh ∨ s.phase = .bSpiInit ∨ s.phase = .fault) :
    exec (.writeCmd ch buf g1x act value) s = .next s := by
  rcases h with hp | hp | hp | hp <;> simp only [exec, execWrite, hp]

/-- Settles O31: the phases of the other command and FAULT are the arms that change nothing. -/
theorem commandWaitsWhileBusy : Obligations.CommandWaitsWhileBusy :=
  ⟨fun _ ignored h => exec_beginCmd_waits ignored h, fun _ _ _ _ _ _ h => exec_writeCmd_waits _ _ _ _ _ h⟩

/-- Settles O23: acceptance after initialisation, whose frame is that of the presented word. -/
theorem writeAccepted : Obligations.WriteAccepted := by
  refine ⟨fun s ch buf g1x act value hp hi => ?_, fun s hp hv hop hi ht => ?_⟩
  · rw [exec_writeCmd_idle _ _ _ _ _ hp, acceptWrite_of_initialized _ _ _ _ _ hi]
    rfl
  · obtain ⟨-, -, hdec⟩ := (commandSelectedByOpBit s.cmd).2 hop
    rw [step_eq_exec_presented hp hv ht, hdec, exec_writeCmd_idle (s := takeTurn s) _ _ _ _ _ hp,
      acceptWrite_of_initialized (s := takeTurn s) _ _ _ _ _ hi, encodeWrite_fields _ hop, pack_eq_frameOf]
    rfl

/-- What a micro-step of BEGIN may write, and in which phase. -/
def BeginWrites (s t : State) : Prop :=
  t = { s with
    cfg := t.cfg, csOe := t.csOe, csOut := t.csOut, initialized := t.initialized, phase := t.phase, req := t.req,
    wire := t.wire, trace := t.trace } ∧
  s.wire <+: t.wire ∧ s.trace <+: t.trace ∧
  (s.phase ≠ .bPinMode → t.csOe = s.csOe) ∧ (s.phase ≠ .bSetHigh → t.csOut = s.csOut) ∧
  (s.phase ≠ .bSpiInit → t.req = s.req) ∧
  (¬ (s.phase = .bSpiInit ∧ s.req = .ack) → t.cfg = s.cfg ∧ t.initialized = s.initialized)

theorem BeginWrites.refl (s : State) : BeginWrites s s :=
  ⟨rfl, List.prefix_rfl, List.prefix_rfl, fun _ => rfl, fun _ => rfl, fun _ => rfl, fun _ => ⟨rfl, rfl⟩⟩

theorem beginWrites_spiPhase (hp : s.phase = .bSpiInit) :
    BeginWrites s (spiPhase .spiInit beginComplete .idle s) := by
  rcases spiPhase_cases .spiInit beginComplete .idle s with ⟨-, h⟩ | ⟨-, h⟩ | ⟨hr, h⟩ <;> rw [h]
  · exact ⟨rfl, List.prefix_rfl, List.prefix_append _ _, fun _ => rfl, fun _ => rfl, fun hne => absurd hp hne,
      fun _ => ⟨rfl, rfl⟩⟩
  · exact .refl s
  · exact ⟨rfl, List.prefix_rfl, List.prefix_append _ _, fun _ => rfl, fun _ => rfl, fun hne => absurd hp hne,
      fun hne => absurd ⟨hp, hr⟩ hne⟩

/-- Settles O22: the micro-step of each phase, field by field. -/
theorem beginFrame : Obligations.BeginFrame := by
  intro s t ignored h
  change BeginWrites s t
  cases hp : s.phase with
  | idle =>
    obtain rfl := next_inj.1 ((exec_beginCmd_idle ignored hp).symm.trans h)
    exact ⟨rfl, List.prefix_rfl, List.prefix_append _ _, fun _ => rfl, fun _ => rfl, fun _ => rfl, fun _ => ⟨rfl, rfl⟩⟩
  | bPinMode =>
    obtain rfl := next_inj.1 ((exec_beginCmd_bPinMode ignored hp).symm.trans h)
    exact ⟨rfl, List.prefix_append _ _, List.prefix_append _ _, fun hne => absurd hp hne, fun _ => rfl, fun _ => rfl,
      fun _ => ⟨rfl, rfl⟩⟩
  | bSetHigh =>
    obtain rfl := next_inj.1 ((exec_beginCmd_bSetHigh ignored hp).symm.trans h)
    exact ⟨rfl, List.prefix_append _ _, List.prefix_append _ _, fun _ => rfl, fun hne => absurd hp hne, fun _ => rfl,
      fun _ => ⟨rfl, rfl⟩⟩
  | bSpiInit =>
    obtain rfl := next_inj.1 ((exec_beginCmd_bSpiInit ignored hp).symm.trans h)
    exact beginWrites_spiPhase hp
  | wCsLow | wOpen | wXfer0 | wXfer1 | wClose | wCsHigh | fault =>
    obtain rfl := next_inj.1 ((exec_beginCmd_waits ignored (by simp [hp, isWritePhase])).symm.trans h)
    exact .refl _

/-- What a micro-step of WRITE may write, and in which phase. -/
def WriteWrites (s t : State) : Prop :=
  t = { s with
    csOut := t.csOut, fault := t.fault, frame := t.frame, phase := t.phase, req := t.req, wire := t.wire,
    trace := t.trace } ∧
  s.wire <+: t.wire ∧ s.trace <+: t.trace ∧
  (¬ (s.phase = .idle ∧ s.initialized = false) → t.fault = s.fault) ∧
  (¬ (s.phase = .idle ∧ s.initialized = true) → t.frame = s.frame) ∧
  (s.phase ≠ .wCsLow → s.phase ≠ .wCsHigh → t.csOut = s.csOut) ∧
  (isSpiPhase s.phase = false → t.req = s.req)

theorem WriteWrites.refl (s : State) : WriteWrites s s :=
  ⟨rfl, List.prefix_rfl, List.prefix_rfl, fun _ => rfl, fun _ => rfl, fun _ _ => rfl, fun _ => rfl⟩

theorem writeWrites_acceptWrite (ch buf g1x act : Bool) (value : BitVec 16) (hp : s.phase = .idle) :
    WriteWrites s (acceptWrite ch buf g1x act value s) := by
  cases hi : s.initialized with
  | false =>
    rw [acceptWrite_of_not_initialized _ _ _ _ _ hi]
    exact ⟨rfl, List.prefix_rfl, (List.prefix_append _ _).trans (List.prefix_append _ _),
      fun hne => absurd ⟨hp, hi⟩ hne,
      fun _ => rfl, fun _ _ => rfl, fun _ => rfl⟩
  | true =>
    rw [acceptWrite_of_initialized _ _ _ _ _ hi]
    exact ⟨rfl, List.prefix_rfl, List.prefix_append _ _, fun _ => rfl, fun hne => absurd ⟨hp, hi⟩ hne, fun _ _ => rfl,
      fun _ => rfl⟩

theorem writeWrites_spiPhase (r : Request) (next : Phase) (hp : isSpiPhase s.phase = true) :
    WriteWrites s (spiPhase r id next s) := by
  rcases spiPhase_cases r id next s with ⟨-, h⟩ | ⟨-, h⟩ | ⟨-, h⟩ <;> rw [h]
  · exact ⟨rfl, List.prefix_rfl, List.prefix_append _ _, fun _ => rfl, fun _ => rfl, fun _ _ => rfl,
      fun hne => by simp [hp] at hne⟩
  · exact .refl s
  · exact ⟨rfl, List.prefix_rfl, List.prefix_rfl, fun _ => rfl, fun _ => rfl, fun _ _ => rfl,
      fun hne => by simp [hp] at hne⟩

/-- Settles O30: the micro-step of each phase, field by field. -/
theorem writeFrame : Obligations.WriteFrame := by
  intro s t ch buf g1x act value h
  change WriteWrites s t
  cases hp : s.phase with
  | idle =>
    obtain rfl := next_inj.1 ((exec_writeCmd_idle _ _ _ _ _ hp).symm.trans h)
    exact writeWrites_acceptWrite _ _ _ _ _ hp
  | wCsLow =>
    obtain rfl := next_inj.1 ((exec_writeCmd_wCsLow _ _ _ _ _ hp).symm.trans h)
    exact ⟨rfl, List.prefix_append _ _, List.prefix_append _ _, fun _ => rfl, fun _ => rfl, fun hne => absurd hp hne,
      fun _ => rfl⟩
  | wOpen | wXfer0 | wXfer1 | wClose =>
    simp only [exec, execWrite, hp, next_inj] at h
    subst h
    exact writeWrites_spiPhase _ _ (by rw [hp]; rfl)
  | wCsHigh =>
    obtain rfl := next_inj.1 ((exec_writeCmd_wCsHigh _ _ _ _ _ hp).symm.trans h)
    exact ⟨rfl, List.prefix_append _ _, (List.prefix_append _ _).trans (List.prefix_append _ _), fun _ => rfl,
      fun _ => rfl, fun _ hne => absurd hp hne, fun _ => rfl⟩
  | bPinMode | bSetHigh | bSpiInit | fault =>
    obtain rfl := next_inj.1 ((exec_writeCmd_waits ch buf g1x act value (by simp [hp])).symm.trans h)
    exact .refl _

/-- The operands are read at acceptance only (41_write.md R77). -/
theorem exec_writeCmd_of_ne_idle (ch buf g1x act ch' buf' g1x' act' : Bool) (value value' : BitVec 16)
    (hp : s.phase ≠ .idle) :
    exec (.writeCmd ch buf g1x act value) s = exec (.writeCmd ch' buf' g1x' act' value') s := by
  unfold exec execWrite
  cases h : s.phase with
  | idle => exact absurd h hp
  | bPinMode | bSetHigh | bSpiInit | wCsLow | wOpen | wXfer0 | wXfer1 | wClose | wCsHigh | fault => rfl

/-- Settles O11: at acceptance the value reaches the frame, which keeps it modulo 4096, and the accepted word; and it is
not read again. -/
theorem valueTruncated : Obligations.ValueTruncated := by
  intro ch buf g1x act value
  refine ⟨pack_truncated .., fun s => ?_⟩
  obtain ⟨t, h⟩ := exec_answers_next (.writeCmd ch buf g1x act value) s
  obtain ⟨-, -, -, hfault, -⟩ := writeFrame s t ch buf g1x act value h
  refine ⟨t, h, ?_⟩
  by_cases hp : s.phase = .idle
  · rw [exec_writeCmd_idle _ _ _ _ _ hp, next_inj] at h
    rw [exec_writeCmd_idle _ _ _ _ _ hp]
    cases hi : s.initialized with
    | false =>
      rw [acceptWrite_of_not_initialized _ _ _ _ _ hi] at h ⊢
      subst h
      exact ⟨_, rfl, fun hne => absurd hp hne, fun _ => ⟨_, rfl, by simp [raiseFault_eq], by simp⟩, by simp [hp]⟩
    | true =>
      rw [acceptWrite_of_initialized _ _ _ _ _ hi] at h ⊢
      rw [← pack_truncated]
      subst h
      exact ⟨_, rfl, fun hne => absurd hp hne, fun _ => ⟨_, rfl, rfl, rfl⟩, fun _ => rfl⟩
  · rw [exec_writeCmd_of_ne_idle _ _ _ _ ch buf g1x act _ value hp]
    exact ⟨t.trace, h, fun _ => rfl, fun hidle => absurd hidle hp, fun _ => hfault fun ⟨hidle, _⟩ => hp hidle⟩

-- The collaborator's operations

/-- The operation of a request is its acknowledgement step. -/
theorem exec_instrOf (r : Request) (s : State) : exec (instrOf r) s = .next (answer r s) := by
  cases r <;> rfl

/-- An acknowledgement without its request, or without its precondition, changes nothing (42_spi_bus.md R96). -/
theorem exec_instrOf_of_not_enabled {r : Request} (h : outstanding s ≠ some r ∨ grantable .thisBlock r s ≠ true) :
    exec (instrOf r) s = .next s := by
  rw [exec_instrOf, answer, if_neg (by tauto)]

/-- Settles O36: each operation's precondition is its `grantable`. -/
theorem spiWaitsForPrecondition : Obligations.SpiWaitsForPrecondition := by
  intro s
  refine ⟨fun h => exec_instrOf_of_not_enabled (r := .spiInit) (.inl h), fun c h => ?_, fun b h => ?_, fun h => ?_⟩
  · exact exec_instrOf_of_not_enabled (r := .spiBegin c) (h.imp_right fun hb => by simpa [grantable] using hb)
  · exact exec_instrOf_of_not_enabled (r := .spiXfer b) (h.imp_right fun hb => by simpa [grantable] using hb)
  · exact exec_instrOf_of_not_enabled (r := .spiEnd) (h.imp_right fun hb => by simpa [grantable] using hb)

/-- Settles O33: a BEGIN is grantable on a bus without owner, and nobody else's transaction is touched. -/
theorem spiBeginGranted : Obligations.SpiBeginGranted := by
  intro s c ho
  refine ⟨fun hb => ?_, fun hb => (spiWaitsForPrecondition s).2.1 c (.inr hb)⟩
  exact congrArg Host.Outcome.next (answer_of_granted ho (by simp [grantable, hb]))

/-- A byte's bits in the order of their clock edges, by number. -/
theorem byteBits_eq_range (msbFirst : Bool) (b : Byte) :
    byteBits msbFirst b = (List.range 8).map (fun i => b.getLsbD (if msbFirst then 7 - i else i)) := by
  cases msbFirst <;> rfl

theorem map_byteBits (who : Requester) (msbFirst : Bool) (b : Byte) :
    (byteBits msbFirst b).map (WireItem.bit who) =
      (List.range 8).map (fun i => .bit who (b.getLsbD (if msbFirst then 7 - i else i))) := by
  rw [byteBits_eq_range, List.map_map]
  rfl

theorem transferBitOrder_of_bus {transaction : Transaction} (h : s.bus = some transaction) :
    transferBitOrder s = transaction.cfg.bitOrder := by
  simp only [transferBitOrder, h]

/-- An XFER in a transaction of this block (42_spi_bus.md R99). -/
theorem answer_spiXfer {b : Byte} {c : BusCfg} (ho : outstanding s = some (.spiXfer b))
    (hb : s.bus = some ⟨.thisBlock, c⟩) :
    answer (.spiXfer b) s = { s with
      req := .ack
      spiRdata := Config.receivedByte s.tick
      wire := s.wire ++ (List.range 8).map (fun i => .bit .thisBlock (b.getLsbD (if c.bitOrder then 7 - i else i)))
      trace := s.trace ++ [⟨.spiCollaborator, .spiAck .thisBlock .spiXfer⟩] } := by
  rw [answer_of_granted ho (by simp [grantable, busOwner, hb]), ← map_byteBits .thisBlock c.bitOrder b,
    ← transferBitOrder_of_bus hb]
  rfl

/-- Settles O34: the eight bits in the order of the open transaction, which for `CFG_DAC` is bit 7 first. -/
theorem spiXferShiftsByte : Obligations.SpiXferShiftsByte := by
  refine ⟨fun s b c ho hb => ⟨_, congrArg Host.Outcome.next (answer_spiXfer ho hb)⟩, fun s b ho hb => ?_⟩
  refine ⟨_, congrArg Host.Outcome.next (answer_spiXfer ho hb), by simp, fun i hi => ?_, hb⟩
  simp [cfgDac, hi]

/-- Settles O37: the acknowledgement step's frame, and of its effect what each operation performs. -/
theorem spiFrame : Obligations.SpiFrame := by
  intro s t i hi h
  obtain ⟨r, rfl⟩ : ∃ r, i = instrOf r := by
    rcases hi with rfl | ⟨c, rfl⟩ | ⟨b, rfl⟩ | rfl
    exacts [⟨.spiInit, rfl⟩, ⟨.spiBegin c, rfl⟩, ⟨.spiXfer b, rfl⟩, ⟨.spiEnd, rfl⟩]
  obtain rfl := next_inj.1 ((exec_instrOf r s).symm.trans h)
  refine ⟨answer_frame r s, ?_⟩
  rcases answer_cases r s with ⟨-, -, ha⟩ | ⟨-, ha⟩ <;> rw [ha]
  · refine ⟨performOp_wire_prefix _ _ s, ?_, ?_⟩
    · rw [emit_trace, setReq_trace, performOp_trace]
      exact List.prefix_append _ _
    · cases r <;> simp [instrOf, performOp]
  · exact ⟨List.prefix_rfl, List.prefix_rfl, fun _ => rfl, fun _ => rfl, fun _ => rfl⟩

-- What each mover fetches

theorem fetch_sequencer (s : State) : fetch .sequencer s = sequencerInstr s := rfl

theorem fetch_sequencer_idle (hp : s.phase = .idle) :
    fetch .sequencer s = if s.cmdValid then some (decode (.command s.cmd)) else none := by
  simp only [fetch_sequencer, sequencerInstr, hp, decode]

/-- In a phase of WRITE the sequencer fetches a WRITE whose packing is the frame latch. -/
theorem fetch_sequencer_write (hp : isWritePhase s.phase = true) :
    fetch .sequencer s = some (frameCommand s.frame) := by
  cases h : s.phase <;> simp_all [isWritePhase, fetch_sequencer, sequencerInstr]

/-- Settles O14: the port is fetched in IDLE, and no other phase reads it. -/
theorem commandTakenInIdle : Obligations.CommandTakenInIdle := by
  intro s
  refine ⟨by simp [cmdReady], by simp [busy], fun hp hv => ?_, fun hp hv => ?_, fun v c hp => ?_⟩
  · rw [fetch_sequencer_idle hp, if_pos hv]
  · rw [fetch_sequencer_idle hp, if_neg (by simp [hv])]
  · unfold fetch sequencerInstr
    cases h : s.phase with
    | idle => exact absurd h hp
    | bPinMode | bSetHigh | bSpiInit | wCsLow | wOpen | wXfer0 | wXfer1 | wClose | wCsHigh | fault => rfl

/-- Settles O50: a step is a fetch and an `exec`, and each fetch reads its port or the phase. -/
theorem stepRunsFetched : Obligations.StepRunsFetched := by
  refine ⟨fun s i hrst hi => ⟨?_, rfl⟩, fun s hp hv => ?_, fun s hr => ?_, fun s hp => ⟨0#20, ?_⟩, fun s hp => ?_⟩
  · rw [step_of_not_rst hrst, moveOutcome, hi]
  · rw [fetch_sequencer_idle hp, if_pos hv]
  · exact if_pos hr
  · rcases hp with hp | hp | hp <;> simp only [fetch_sequencer, sequencerInstr, hp]
  · exact ⟨_, _, _, _, _, fetch_sequencer_write hp, pack_fields s.frame⟩

/-- An acknowledgement of an outstanding request is the operation of that request. -/
theorem step_of_outstanding {r : Request} {rest : List Turn} (hsched : s.schedule = acknowledgeTurn :: rest)
    (ho : outstanding s = some r) : step s = exec (instrOf r) (takeTurn s) := by
  have ho' : outstanding (takeTurn s) = some r := ho
  rw [step_acknowledgeTurn hsched, exec_instrOf, acknowledgeNext, ho']

theorem turnOf_of_schedule {turn : Turn} {rest : List Turn} (h : s.schedule = turn :: rest) : turnOf s = turn := by
  simp only [turnOf, h]

end

/-- A placed request is outstanding, with its argument where the phase reads it. -/
theorem outstanding_placeRequest (r : Request) (s : State) : outstanding (placeRequest r s) = some r := by
  refine outstanding_eq_some.2 ⟨by cases r <;> rfl, ?_⟩
  cases r with
  | spiInit | spiBegin c | spiEnd => rfl
  | spiXfer b => exact congrArg (fun b => some (Request.spiXfer b)) BitVec.extractLsb'_append_eq_left

/-- Settles O51: a placed command is presented to an idle block, a placed request is outstanding. -/
theorem placedInstructionRuns : Obligations.PlacedInstructionRuns := by
  intro i s
  have hcommand {w : CmdWord} {i : Instr} (hdec : decodeCommand w = i) :
      step (placeCommand w s) = exec i (takeTurn (placeCommand w s)) :=
    hdec ▸ step_eq_exec_presented rfl rfl rfl
  have hrequest (r : Request) : step (placeRequest r s) = exec (instrOf r) (takeTurn (placeRequest r s)) :=
    step_of_outstanding (rest := s.schedule) (by cases r <;> rfl) (outstanding_placeRequest r s)
  cases i with
  | beginCmd ignored => exact hcommand (decodeCommand_encodeBegin ignored)
  | writeCmd ch buf g1x act value => exact hcommand (decodeCommand_encodeWrite ch buf g1x act value)
  | spiInit => exact hrequest .spiInit
  | spiBegin cfg => exact hrequest (.spiBegin cfg)
  | spiXfer byte => exact hrequest (.spiXfer byte)
  | spiEnd => exact hrequest .spiEnd

end Sys2Proof.Proofs
end

section
/-! PROOFS. Foreign bus users, and a frame latch that nobody can observe between writes. -/

namespace Sys2Proof.Proofs

open Sys2Proof.Machine Sys2Proof.Safety

section
variable {s t : State}

theorem step_of_turnOf {m : Move} (h : turnOf s = ⟨false, m⟩) : step s = moveOutcome m (takeTurn s) := by
  rw [step_of_not_rst (by rw [h]), h]

theorem issueForeign_of_new {user : Nat} (r : Request) (h : user ∉ s.foreignReqs.map Prod.fst) :
    issueForeign user r s =
      emit (.foreignUser user) (.spiReq r) { s with foreignReqs := s.foreignReqs ++ [(user, r)] } := by
  rcases issueForeign_cases user r s with ⟨-, ha⟩ | ⟨hold, -⟩
  · exact ha
  · exact absurd hold h

/-- With one request a user, the request of a user is the one that is found. -/
theorem find?_request {user : Nat} {r : Request} {reqs : List (Nat × Request)} (hd : (reqs.map Prod.fst).Nodup)
    (hm : (user, r) ∈ reqs) : reqs.find? (fun p => p.1 == user) = some (user, r) := by
  induction reqs with
  | nil => cases hm
  | cons p reqs ih =>
    obtain ⟨hp, hd'⟩ := List.nodup_cons.1 hd
    rcases List.mem_cons.1 hm with rfl | hm
    · simp
    · have hne : p.1 ≠ user := by
        rintro rfl
        exact hp (List.mem_map.2 ⟨_, hm, rfl⟩)
      rw [List.find?_cons_of_neg (by simpa using hne), ih hd' hm]

/-- A foreign user's granted request is performed, and its acknowledgement noted (42_spi_bus.md R96). -/
theorem answerForeign_of_granted {user : Nat} {r : Request} (hd : ForeignDistinct s) (hm : (user, r) ∈ s.foreignReqs)
    (hg : grantable (.foreign user) r s = true) :
    answerForeign user s = emit .spiCollaborator (.spiAck (.foreign user) (requestOp r))
      (performOp (.foreign user) r { s with foreignReqs := s.foreignReqs.filter (fun p => p.1 != user) }) := by
  simp only [answerForeign, find?_request hd hm, hg, if_true]

theorem step_foreign_granted {user : Nat} {r : Request} (ht : turnOf s = ⟨false, .acknowledge (.foreign user)⟩)
    (hd : ForeignDistinct s) (hm : (user, r) ∈ s.foreignReqs) (hg : grantable (.foreign user) r s = true) :
    step s = .next (emit .spiCollaborator (.spiAck (.foreign user) (requestOp r))
      (performOp (.foreign user) r { takeTurn s with foreignReqs := s.foreignReqs.filter (fun p => p.1 != user) })) :=
  (step_of_turnOf ht).trans (congrArg Host.Outcome.next (answerForeign_of_granted (s := takeTurn s) hd hm hg))

/-- Another instance that owns the bus releases it at its reset, or leaves it its own, by its own parameter
(60_exceptions.md R120). -/
theorem resetForeign_of_owner {user : Nat} (h : busOwner s = some (.foreign user)) :
    if Config.foreignReleaseOnReset user = true then (resetForeign user s).bus = none
    else busOwner (resetForeign user s) = some (.stranded user) := by
  obtain ⟨c, hb⟩ := bus_of_busOwner h
  split
  next hrelease => simp [resetForeign, hb, hrelease]
  next hkeep => simp [resetForeign, busOwner, hb, hkeep]

/-- While another owns the bus this block is granted INIT only (42_spi_bus.md R97 to R100). -/
theorem eq_spiInit_of_grantable_thisBlock {o : BusOwner} {r : Request} (h : busOwner s = some o) (ho : o ≠ .thisBlock)
    (hg : grantable .thisBlock r s = true) : r = .spiInit := by
  obtain ⟨c, hb⟩ := bus_of_busOwner h
  cases r with
  | spiInit => rfl
  | spiBegin _ => simp [grantable, hb] at hg
  | spiXfer _ | spiEnd => simp [grantable, h, ho] at hg

/-- Nobody takes the bus from a user that a reset has left its owner. -/
theorem step_keeps_stranded {user : Nat} (hinv : Inv s) (h : busOwner s = some (.stranded user))
    (hs : step s = .next t) : busOwner t = some (.stranded user) := by
  suffices hbus : t.bus = s.bus by rwa [busOwner, hbus]
  rcases step_agents hs with ⟨-, rfl⟩ | ⟨-, ⟨-, hstep⟩ | ⟨-, hstep⟩ | ⟨-, -, hstep⟩⟩
  · obtain ⟨-, -, -, -, hheld, -⟩ := hinv
    have hhold : holdsBus (takeTurn s) ≠ true := by
      intro hhold
      rw [busOwner, hheld hhold] at h
      cases h
    rw [resetStep_bus, if_neg fun hrelease => hhold hrelease.1, takeTurn_bus]
  · exact (bus_sequencerStep hstep).trans (takeTurn_bus s)
  · cases hstep with
    | rests _ => rfl
    | grants _ hg =>
      obtain rfl := eq_spiInit_of_grantable_thisBlock (s := takeTurn s) h (by simp) hg
      rfl
  · obtain ⟨c, hb⟩ := bus_of_busOwner h
    have hforeign : ForeignBusStep (some ⟨.stranded user, c⟩) t.bus := hb ▸ hstep.bus
    rw [hb]
    generalize t.bus = bus at hforeign
    cases hforeign
    rfl

end

/-- Settles O39: each foreign operation under its precondition, the reset of another instance, and the bus it may leave. -/
theorem foreignUsersAct : Obligations.ForeignUsersAct := by
  refine ⟨fun s user r ht hnew => ?_, fun s s' user r hd ht hm hs' => ?_, fun s user ht => ?_,
    fun s t user hinv h hs => step_keeps_stranded hinv h hs⟩
  · exact (step_of_turnOf ht).trans (congrArg Host.Outcome.next (issueForeign_of_new (s := takeTurn s) r hnew))
  · subst hs'
    refine ⟨?_, fun c hr hb => ?_, fun b hr ho => ?_, fun hr ho => ?_⟩
    · rintro rfl
      exact step_foreign_granted ht hd hm rfl
    · subst hr
      exact step_foreign_granted ht hd hm (by simp [grantable, hb])
    · subst hr
      refine ⟨transferBitOrder (takeTurn s), fun transaction hb => transferBitOrder_of_bus (s := takeTurn s) hb, ?_⟩
      rw [step_foreign_granted ht hd hm (by simpa [grantable] using ho), ← map_byteBits]
      rfl
    · subst hr
      exact step_foreign_granted ht hd hm (by simp [grantable, ho])
  · refine ⟨resetForeign user (takeTurn s), step_of_turnOf ht, rfl, fun ho => ?_,
      fun ho => resetForeign_of_owner (s := takeTurn s) ho⟩
    rcases resetForeign_bus user (takeTurn s) with ⟨ho', -⟩ | ⟨-, hb⟩
    · exact absurd ho' ho
    · exact hb

-- A stale frame latch

/-- The state with this in the frame latch. -/
def withFrame (f : FrameWord) (s : State) : State :=
  { s with frame := f }

section
variable (f : FrameWord) (s : State)

@[simp] theorem withFrame_phase : (withFrame f s).phase = s.phase := rfl
@[simp] theorem withFrame_req : (withFrame f s).req = s.req := rfl
@[simp] theorem withFrame_initialized : (withFrame f s).initialized = s.initialized := rfl
@[simp] theorem withFrame_cmdValid : (withFrame f s).cmdValid = s.cmdValid := rfl
@[simp] theorem withFrame_cmd : (withFrame f s).cmd = s.cmd := rfl
@[simp] theorem withFrame_foreignReqs : (withFrame f s).foreignReqs = s.foreignReqs := rfl
@[simp] theorem grantable_withFrame (who : Requester) (r : Request) :
    grantable who r (withFrame f s) = grantable who r s := rfl
@[simp] theorem turnOf_withFrame : turnOf (withFrame f s) = turnOf s := rfl
@[simp] theorem takeTurn_withFrame : takeTurn (withFrame f s) = withFrame f (takeTurn s) := rfl

theorem performOp_withFrame (who : Requester) (r : Request) :
    performOp who r (withFrame f s) = withFrame f (performOp who r s) := by
  cases r <;> rfl

theorem issueForeign_withFrame (user : Nat) (r : Request) :
    issueForeign user r (withFrame f s) = withFrame f (issueForeign user r s) := by
  unfold issueForeign
  rw [withFrame_foreignReqs]
  split <;> rfl

theorem answerForeign_withFrame (user : Nat) :
    answerForeign user (withFrame f s) = withFrame f (answerForeign user s) := by
  unfold answerForeign
  rw [withFrame_foreignReqs]
  split
  · rw [grantable_withFrame]
    split
    · exact congrArg (emit _ _)
        (performOp_withFrame f { s with foreignReqs := s.foreignReqs.filter (fun p => p.1 != user) } _ _)
    · rfl
  · rfl

end

/-- A function of the state that reads no stale frame: another content of the latch changes that content alone, and not even
that once a write sequence has started. -/
def IgnoresFrame (g : State → State) (s : State) : Prop :=
  ∀ f : FrameWord, ∃ f', g (withFrame f s) = withFrame f' (g s) ∧ (isWritePhase (g s).phase = true → f' = (g s).frame)

section
variable {s t : State}

theorem IgnoresFrame.of_commutes {g : State → State} (hg : ∀ f, g (withFrame f s) = withFrame f (g s))
    (hp : isWritePhase (g s).phase = false) : IgnoresFrame g s :=
  fun f => ⟨f, hg f, fun hw => by simp [hp] at hw⟩

/-- Outside a write sequence the outstanding request can only be INIT, which has no argument. -/
theorem outstanding_withFrame (f : FrameWord) (hp : isWritePhase s.phase = false) :
    outstanding (withFrame f s) = outstanding s := by
  unfold outstanding phaseRequest
  rw [withFrame_phase]
  cases h : s.phase with
  | wCsLow | wOpen | wXfer0 | wXfer1 | wClose | wCsHigh => simp [h, isWritePhase] at hp
  | idle | bPinMode | bSetHigh | bSpiInit | fault => rfl

theorem acknowledgeNext_withFrame (f : FrameWord) (hp : isWritePhase s.phase = false) :
    acknowledgeNext (withFrame f s) = withFrame f (acknowledgeNext s) := by
  have ho := outstanding_withFrame f hp
  unfold acknowledgeNext answer
  rw [ho]
  split
  · rw [grantable_withFrame, performOp_withFrame]
    split <;> rfl
  · rfl

theorem ignoresFrame_acceptWrite (ch buf g1x act : Bool) (value : BitVec 16) :
    IgnoresFrame (acceptWrite ch buf g1x act value) s := by
  intro f
  cases hi : s.initialized with
  | false =>
    rw [acceptWrite_of_not_initialized (s := withFrame f s) _ _ _ _ _ hi, acceptWrite_of_not_initialized _ _ _ _ _ hi]
    exact ⟨f, rfl, fun hw => by simp [raiseFault_eq, isWritePhase] at hw⟩
  | true =>
    rw [acceptWrite_of_initialized (s := withFrame f s) _ _ _ _ _ hi, acceptWrite_of_initialized _ _ _ _ _ hi]
    exact ⟨_, rfl, fun _ => rfl⟩

theorem spiInit_withFrame (f : FrameWord) (s : State) :
    spiPhase .spiInit beginComplete .idle (withFrame f s) = withFrame f (spiPhase .spiInit beginComplete .idle s) := by
  unfold spiPhase
  rw [withFrame_req]
  cases s.req <;> rfl

/-- Outside a write sequence the sequencer reads no frame; where it starts one it latches a new frame (10_state.md R21). -/
theorem ignoresFrame_sequencerNext (hp : isWritePhase s.phase = false) : IgnoresFrame sequencerNext s := by
  cases h : s.phase with
  | wCsLow | wOpen | wXfer0 | wXfer1 | wClose | wCsHigh => simp [h, isWritePhase] at hp
  | idle =>
    cases hv : s.cmdValid with
    | false =>
      refine .of_commutes (fun f => ?_) ?_
      · simp only [sequencerNext, withFrame_phase, withFrame_cmdValid, h, hv, Bool.false_eq_true, if_false]
      · simpa only [sequencerNext, h, hv, Bool.false_eq_true, if_false] using hp
    | true =>
      intro f
      rcases decodeCommand_cases s.cmd with ⟨ignored, hdec⟩ | ⟨ch, buf, g1x, act, value, hdec⟩ <;>
        simp only [sequencerNext, withFrame_phase, withFrame_cmdValid, withFrame_cmd, h, hv, if_true, hdec]
      · exact ⟨f, rfl, fun hw => by simp [isWritePhase] at hw⟩
      · exact ignoresFrame_acceptWrite ch buf g1x act value f
  | bPinMode | bSetHigh =>
    refine .of_commutes (fun f => ?_) ?_ <;> simp only [sequencerNext, withFrame_phase, h] <;> rfl
  | bSpiInit =>
    refine .of_commutes (fun f => ?_) ?_
    · simp only [sequencerNext, withFrame_phase, h, spiInit_withFrame]
    · simp only [sequencerNext, h]
      rcases spiPhase_phase .spiInit beginComplete .idle s with ht | ht
      · rw [ht, hp]
      · rw [ht]; rfl
  | fault =>
    refine .of_commutes (fun f => ?_) ?_
    · simp only [sequencerNext, withFrame_phase, h]
    · simpa only [sequencerNext, h] using hp

/-- Every agent's move outside a write sequence. -/
theorem moveOutcome_withFrame (m : Move) (f : FrameWord) (hp : isWritePhase s.phase = false)
    (h : moveOutcome m s = .next t) :
    ∃ f', moveOutcome m (withFrame f s) = .next (withFrame f' t) ∧ (isWritePhase t.phase = true → f' = t.frame) := by
  have of_ignores (g : State → State) (hg : IgnoresFrame g s) (hm : ∀ u, moveOutcome m u = .next (g u)) :
      ∃ f', moveOutcome m (withFrame f s) = .next (withFrame f' t) ∧ (isWritePhase t.phase = true → f' = t.frame) := by
    obtain rfl := next_inj.1 ((hm s).symm.trans h)
    obtain ⟨f', hf', hw⟩ := hg f
    exact ⟨f', by rw [hm, hf'], hw⟩
  cases m with
  | sequencer => exact of_ignores _ (ignoresFrame_sequencerNext hp) moveOutcome_sequencer
  | acknowledge who =>
    cases who with
    | thisBlock =>
      exact of_ignores _ (.of_commutes (fun f => acknowledgeNext_withFrame f hp) (by simpa using hp))
        moveOutcome_acknowledge
    | foreign user =>
      exact of_ignores _ (.of_commutes (fun f => answerForeign_withFrame f s user) (by simpa using hp)) fun _ => rfl
  | present cmd =>
    exact of_ignores (fun u => { u with cmdValid := true, cmd := cmd }) (.of_commutes (fun _ => rfl) hp) fun _ => rfl
  | withdraw =>
    exact of_ignores (fun u => { u with cmdValid := false }) (.of_commutes (fun _ => rfl) hp) fun _ => rfl
  | foreignRequest user r =>
    exact of_ignores _ (.of_commutes (fun f => issueForeign_withFrame f s user r) (by simpa using hp)) fun _ => rfl
  | foreignReset user => exact of_ignores _ (.of_commutes (fun _ => rfl) hp) fun _ => rfl
  | breach => exact absurd h (by simp [moveOutcome, fetch, environment])

theorem step_withFrame (f : FrameWord) (hp : isWritePhase s.phase = false) (h : step s = .next t) :
    ∃ f', step (withFrame f s) = .next (withFrame f' t) ∧ (isWritePhase t.phase = true → f' = t.frame) := by
  cases hrst : (turnOf s).rst with
  | true =>
    obtain rfl := eq_resetStep_of_rst h hrst
    exact ⟨_, step_of_rst (s := withFrame f s) hrst, fun _ => rfl⟩
  | false =>
    rw [step_of_not_rst hrst] at h
    rw [step_of_not_rst (by simpa using hrst)]
    exact moveOutcome_withFrame (s := takeTurn s) _ f hp h

/-- Outside a write sequence the request port shows no frame (10_state.md R21, R29). -/
theorem requestPort_withFrame (f : FrameWord) (hp : isWritePhase s.phase = false) :
    requestPort (withFrame f s) = requestPort s := by
  unfold requestPort phaseRequest
  rw [withFrame_phase]
  cases h : s.phase with
  | wCsLow | wOpen | wXfer0 | wXfer1 | wClose | wCsHigh => simp [h, isWritePhase] at hp
  | idle | bPinMode | bSetHigh | bSpiInit | fault => rfl

end

/-- Settles O48: outside a write sequence neither a port nor any agent's move reads the latch. -/
theorem staleFrameUnobservable : Obligations.StaleFrameUnobservable :=
  ⟨fun _ f hp => ⟨requestPort_withFrame f hp, rfl, rfl⟩, fun _ _ f hp h => step_withFrame f hp h⟩

end Sys2Proof.Proofs
end

section
/-! PROOFS. One BEGIN and one WRITE with nothing in between, SPI phase by SPI phase. -/

namespace Sys2Proof.Proofs

open Sys2Proof.Machine Sys2Proof.Safety

section
variable {s t : State}

theorem runFor_add {j k : Nat} (h : runFor j s = .next t) : runFor (j + k) s = runFor k t := by
  induction j generalizing s with
  | zero =>
    obtain rfl := next_inj.1 h
    rw [Nat.zero_add]
  | succ j ih =>
    obtain ⟨u, hs, hrun⟩ := exists_step_of_runFor_succ h
    rw [Nat.add_right_comm, runFor_succ _ hs, ih hrun]

theorem runFor_one (h : step s = .next t) : runFor 1 s = .next t := runFor_succ 0 h

/-- After the issue of a request, the first turn of an SPI phase with nothing in between. -/
def issued (r : Request) (rest : List Turn) (s : State) : State :=
  { s with
    req := .wait
    schedule := acknowledgeTurn :: sequencerTurn :: rest
    tick := s.tick + 1
    trace := s.trace ++ [⟨.sequencer, .spiReq r⟩] }

/-- After its acknowledgement, the second turn. -/
def acknowledged (r : Request) (rest : List Turn) (s : State) : State :=
  { performOp .thisBlock r { s with tick := s.tick + 2 } with
    req := .ack
    schedule := sequencerTurn :: rest
    trace := s.trace ++ [⟨.sequencer, .spiReq r⟩] ++ [⟨.spiCollaborator, .spiAck .thisBlock (requestOp r)⟩] }

/-- The state in which the third turn completes the phase. -/
def served (r : Request) (rest : List Turn) (s : State) : State :=
  { acknowledged r rest s with req := .none, schedule := rest, tick := s.tick + 3 }

theorem step_issues {r : Request} {complete : State → State} {next : Phase} {rest : List Turn}
    (hsched : s.schedule = spiTurns ++ rest) (hreq : s.req = .none)
    (hseq : sequencerNext (takeTurn s) = spiPhase r complete next (takeTurn s)) : step s = .next (issued r rest s) := by
  rw [step_sequencerTurn hsched, hseq, spiPhase_of_none (s := takeTurn s) _ _ _ hreq, takeTurn, hsched]
  rfl

theorem step_acknowledges {r : Request} (rest : List Turn) (hr : phaseRequest s = some r)
    (hg : grantable .thisBlock r s = true) : step (issued r rest s) = .next (acknowledged r rest s) := by
  have ho : outstanding (takeTurn (issued r rest s)) = some r := hr
  rw [step_acknowledgeTurn rfl, acknowledgeNext, ho]
  dsimp only
  rw [answer_of_granted ho hg]
  cases r <;> rfl

theorem acknowledged_keeps (r : Request) (rest : List Turn) (s : State) :
    (takeTurn (acknowledged r rest s)).phase = s.phase ∧ (takeTurn (acknowledged r rest s)).cfg = s.cfg ∧
      (takeTurn (acknowledged r rest s)).frame = s.frame := by
  cases r <;> exact ⟨rfl, rfl, rfl⟩

theorem served_eq (r : Request) (rest : List Turn) (s : State) :
    setReq .none (takeTurn (acknowledged r rest s)) = served r rest s := by
  cases r <;> rfl

/-- An SPI phase with nothing in between: issue, acknowledge, consume (10_state.md R24). -/
theorem run_spiTurns {r : Request} {complete : State → State} {next : Phase} {rest : List Turn}
    (hsched : s.schedule = spiTurns ++ rest) (hreq : s.req = .none) (hr : phaseRequest s = some r)
    (hg : grantable .thisBlock r s = true)
    (hseq : ∀ u, u.phase = s.phase → u.cfg = s.cfg → u.frame = s.frame → sequencerNext u = spiPhase r complete next u) :
    runFor 3 s = .next (setPhase next (complete (served r rest s))) := by
  rw [runFor_succ 2 (step_issues hsched hreq (hseq (takeTurn s) rfl rfl rfl)),
    runFor_succ 1 (step_acknowledges rest hr hg)]
  obtain ⟨hphase, hcfg, hframe⟩ := acknowledged_keeps r rest s
  have hstep := step_sequencerTurn (s := acknowledged r rest s) rfl
  rw [hseq _ hphase hcfg hframe, spiPhase_of_ack _ _ _ (by rfl), served_eq] at hstep
  exact runFor_one hstep

/-- In IDLE the sequencer accepts a presented BEGIN (40_begin.md R63). -/
theorem sequencerNext_begin {ignored : BitVec 20} (hp : s.phase = .idle) (hv : s.cmdValid = true)
    (hcmd : s.cmd = encodeBegin ignored) :
    sequencerNext s = setPhase .bPinMode (emit .sequencer (.cmdAccept (encodeBegin ignored)) s) := by
  simp only [sequencerNext, hp, hv, hcmd, if_true, decodeCommand_encodeBegin]

/-- The first three turns of a BEGIN: acceptance and the two pin writes (40_begin.md R63 to R65). -/
theorem run_begin_pins {ignored : BitVec 20} {rest : List Turn} (hp : s.phase = .idle) (hv : s.cmdValid = true)
    (hcmd : s.cmd = encodeBegin ignored) (hsched : s.schedule = beginTurns ++ rest) :
    runFor 3 s = .next { s with
      phase := .bSpiInit
      csOe := true
      csOut := true
      schedule := spiTurns ++ rest
      tick := s.tick + 3
      wire := s.wire ++ [.cs (some s.csOut), .cs (some true)]
      trace := s.trace ++ [⟨.sequencer, .cmdAccept (encodeBegin ignored)⟩, ⟨.sequencer, .pinOutput s.csLine⟩,
        ⟨.sequencer, .pinWrite s.csLine true⟩] } := by
  have haccept := step_sequencerTurn hsched
  rw [sequencerNext_begin (s := takeTurn s) hp hv hcmd, takeTurn, hsched] at haccept
  rw [runFor_succ 2 haccept, runFor_succ 1 (step_sequencerTurn rfl), runFor_succ 0 (step_sequencerTurn rfl),
    runFor_zero]
  simp [beginTurns, takeTurn, sequencerNext, setPhase, configureOutput, driveCs, emit, putWire]

/-- The result of a BEGIN with nothing in between. -/
theorem run_begin {ignored : BitVec 20} {rest : List Turn} (hp : s.phase = .idle) (hreq : s.req = .none)
    (hv : s.cmdValid = true) (hcmd : s.cmd = encodeBegin ignored) (hsched : s.schedule = beginTurns ++ rest) :
    runFor 6 s = .next { s with
      cfg := cfgDac
      csOe := true
      csOut := true
      initialized := true
      schedule := rest
      tick := s.tick + 6
      wire := s.wire ++ [.cs (some s.csOut), .cs (some true)]
      trace := s.trace ++
        [⟨.sequencer, .cmdAccept (encodeBegin ignored)⟩, ⟨.sequencer, .pinOutput s.csLine⟩,
         ⟨.sequencer, .pinWrite s.csLine true⟩, ⟨.sequencer, .spiReq .spiInit⟩,
         ⟨.spiCollaborator, .spiAck .thisBlock .spiInit⟩, ⟨.sequencer, .cmdDone⟩] } := by
  rw [runFor_add (j := 3) (k := 3) (run_begin_pins hp hv hcmd hsched)]
  refine (run_spiTurns (r := .spiInit) (complete := beginComplete) (next := .idle) rfl ?_ rfl rfl ?_).trans ?_
  · exact hreq
  · exact fun u hu _ _ => by simp only [sequencerNext, hu]
  simp [served, acknowledged, performOp, beginComplete, setPhase, emit, requestOp, hp, hreq]

end

/-- Settles O20: acceptance and the pin writes, then the SPI phase of INIT. -/
theorem beginRuns : Obligations.BeginRuns :=
  fun _ _ _ hp hreq hv hcmd hsched => run_begin hp hreq hv hcmd hsched

end Sys2Proof.Proofs
end

section
/-! PROOFS. One WRITE with nothing in between, and what its receiver takes. -/

namespace Sys2Proof.Proofs

open Sys2Proof.Machine Sys2Proof.Safety

section
variable {s t : State} {rest : List Turn}

/-- The first two turns of a WRITE: acceptance and CS low (41_write.md R77, R78). -/
theorem run_write_asserts {ch buf g1x act : Bool} {value : BitVec 16} (hp : s.phase = .idle)
    (hi : s.initialized = true) (hoe : s.csOe = true) (hv : s.cmdValid = true)
    (hcmd : s.cmd = encodeWrite ch buf g1x act value) (hsched : s.schedule = sequencerTurn :: sequencerTurn :: rest) :
    runFor 2 s = .next { s with
      phase := .wOpen
      csOut := false
      frame := pack ch buf g1x act value
      schedule := rest
      tick := s.tick + 2
      wire := s.wire ++ [.cs (some false)]
      trace := s.trace ++ [⟨.sequencer, .cmdAccept (encodeWrite ch buf g1x act value)⟩,
        ⟨.sequencer, .pinWrite s.csLine false⟩] } := by
  have hnext : sequencerNext (takeTurn s) = setPhase .wCsLow
      { emit .sequencer (.cmdAccept (encodeWrite ch buf g1x act value)) (takeTurn s) with
        frame := pack ch buf g1x act value } := by
    simp only [sequencerNext, takeTurn_phase, takeTurn_cmdValid, takeTurn_cmd, hp, hv, hcmd, if_true,
      decodeCommand_encodeWrite]
    exact acceptWrite_of_initialized _ _ _ _ _ hi
  have haccept := step_sequencerTurn hsched
  rw [hnext, takeTurn, hsched] at haccept
  rw [runFor_succ 1 haccept, runFor_succ 0 (step_sequencerTurn rfl), runFor_zero]
  simp [takeTurn, sequencerNext, setPhase, driveCs, emit, putWire, hoe]

/-- The bus is taken, with the block's configuration (41_write.md R79). -/
theorem run_write_open (hp : s.phase = .wOpen) (hreq : s.req = .none) (hb : s.bus = none)
    (hsched : s.schedule = spiTurns ++ rest) :
    runFor 3 s = .next { s with
      phase := .wXfer0
      bus := some ⟨.thisBlock, s.cfg⟩
      schedule := rest
      tick := s.tick + 3
      wire := s.wire ++ [.config s.cfg]
      trace := s.trace ++ [⟨.sequencer, .spiReq (.spiBegin s.cfg)⟩,
        ⟨.spiCollaborator, .spiAck .thisBlock .spiBegin⟩] } := by
  refine (run_spiTurns (r := .spiBegin s.cfg) (complete := id) (next := .wXfer0) hsched hreq
    (by simp [phaseRequest, hp]) (by simp [grantable, hb])
    fun u hu hc _ => by simp only [sequencerNext, hu, hp, hc]).trans ?_
  simp [served, acknowledged, performOp, setPhase, putWire, requestOp, hreq]

/-- A byte of the frame is transferred (41_write.md R80, R81). -/
theorem run_write_xfer {b : Byte} {next : Phase} {c : BusCfg}
    (hp : (s.phase = .wXfer0 ∧ b = byte0 s.frame ∧ next = .wXfer1) ∨
      (s.phase = .wXfer1 ∧ b = byte1 s.frame ∧ next = .wClose)) (hreq : s.req = .none)
    (hb : s.bus = some ⟨.thisBlock, c⟩) (hsched : s.schedule = spiTurns ++ rest) :
    runFor 3 s = .next { s with
      phase := next
      spiRdata := Config.receivedByte (s.tick + 2)
      schedule := rest
      tick := s.tick + 3
      wire := s.wire ++ (byteBits c.bitOrder b).map (.bit .thisBlock)
      trace := s.trace ++ [⟨.sequencer, .spiReq (.spiXfer b)⟩, ⟨.spiCollaborator, .spiAck .thisBlock .spiXfer⟩] } := by
  have hr : phaseRequest s = some (.spiXfer b) := by
    rcases hp with ⟨hp, rfl, -⟩ | ⟨hp, rfl, -⟩ <;> simp only [phaseRequest, hp]
  refine (run_spiTurns (r := .spiXfer b) (complete := id) (next := next) hsched hreq hr
    (by simp [grantable, busOwner, hb]) fun u hu _ hf => ?_).trans ?_
  · rcases hp with ⟨hp, rfl, rfl⟩ | ⟨hp, rfl, rfl⟩ <;> simp only [sequencerNext, hu, hp, hf]
  · simp [served, acknowledged, performOp, setPhase, putWire, requestOp, transferBitOrder, hreq, hb]

/-- The bus is released (41_write.md R82). -/
theorem run_write_close {c : BusCfg} (hp : s.phase = .wClose) (hreq : s.req = .none)
    (hb : s.bus = some ⟨.thisBlock, c⟩) (hsched : s.schedule = spiTurns ++ rest) :
    runFor 3 s = .next { s with
      phase := .wCsHigh
      bus := none
      schedule := rest
      tick := s.tick + 3
      trace := s.trace ++ [⟨.sequencer, .spiReq .spiEnd⟩, ⟨.spiCollaborator, .spiAck .thisBlock .spiEnd⟩] } := by
  refine (run_spiTurns (r := .spiEnd) (complete := id) (next := .wCsHigh) hsched hreq
    (by simp [phaseRequest, hp]) (by simp [grantable, busOwner, hb])
    fun u hu _ _ => by simp only [sequencerNext, hu, hp]).trans ?_
  simp [served, acknowledged, performOp, setPhase, requestOp, hreq]

/-- CS goes high and the WRITE has completed (41_write.md R83). -/
theorem run_write_deasserts (hp : s.phase = .wCsHigh) (hoe : s.csOe = true)
    (hsched : s.schedule = sequencerTurn :: rest) :
    runFor 1 s = .next { s with
      phase := .idle
      csOut := true
      schedule := rest
      tick := s.tick + 1
      wire := s.wire ++ [.cs (some true)]
      trace := s.trace ++ [⟨.sequencer, .pinWrite s.csLine true⟩, ⟨.sequencer, .cmdDone⟩] } := by
  have hstep := step_sequencerTurn hsched
  simp only [sequencerNext, takeTurn_phase, hp] at hstep
  rw [runFor_one hstep]
  simp [takeTurn, setPhase, driveCs, emit, putWire, hoe, hsched]

/-- The sixteen bits of a frame, most-significant first, are those of its two bytes (42_spi_bus.md R105). -/
theorem byteBits_byte0_append_byte1 (f : FrameWord) :
    byteBits true (byte0 f) ++ byteBits true (byte1 f) = (List.range 16).map (fun k => f.getLsbD (15 - k)) := by
  simp only [byteBits, byte0, byte1, BitVec.getLsbD_extractLsb', if_true]
  rfl

theorem append_map_bits (f : FrameWord) :
    (byteBits true (byte0 f)).map (WireItem.bit .thisBlock) ++ (byteBits true (byte1 f)).map (WireItem.bit .thisBlock) =
      (List.range 16).map (fun k => .bit .thisBlock (f.getLsbD (15 - k))) := by
  rw [← List.map_append, byteBits_byte0_append_byte1, List.map_map]
  rfl

/-- One bus transaction: both bytes of the frame between BEGIN and END (41_write.md R79 to R82). -/
theorem run_write_transaction (hp : s.phase = .wOpen) (hreq : s.req = .none) (hb : s.bus = none)
    (hcfg : s.cfg = cfgDac) (hsched : s.schedule = spiTurns ++ (spiTurns ++ (spiTurns ++ (spiTurns ++ rest)))) :
    runFor 12 s = .next { s with
      phase := .wCsHigh
      spiRdata := Config.receivedByte (s.tick + 8)
      schedule := rest
      tick := s.tick + 12
      wire := s.wire ++ .config cfgDac :: (List.range 16).map (fun k => .bit .thisBlock (s.frame.getLsbD (15 - k)))
      trace := s.trace ++
        [⟨.sequencer, .spiReq (.spiBegin cfgDac)⟩, ⟨.spiCollaborator, .spiAck .thisBlock .spiBegin⟩,
         ⟨.sequencer, .spiReq (.spiXfer (byte0 s.frame))⟩, ⟨.spiCollaborator, .spiAck .thisBlock .spiXfer⟩,
         ⟨.sequencer, .spiReq (.spiXfer (byte1 s.frame))⟩, ⟨.spiCollaborator, .spiAck .thisBlock .spiXfer⟩,
         ⟨.sequencer, .spiReq .spiEnd⟩, ⟨.spiCollaborator, .spiAck .thisBlock .spiEnd⟩] } := by
  refine Eq.trans (runFor_add (j := 3) (k := 9) (run_write_open hp hreq hb hsched)) ?_
  refine Eq.trans (runFor_add (j := 3) (k := 6) (run_write_xfer (.inl ⟨rfl, rfl, rfl⟩) hreq rfl rfl)) ?_
  dsimp only
  refine Eq.trans (runFor_add (j := 3) (k := 3) (run_write_xfer (.inr ⟨rfl, rfl, rfl⟩) hreq rfl rfl)) ?_
  dsimp only
  refine Eq.trans (run_write_close rfl hreq rfl rfl) ?_
  rw [← append_map_bits]
  simp [hcfg, hb, cfgDac]

end

/-- Settles O28: acceptance and CS low, the bus transaction, and CS high. -/
theorem writeRuns : Obligations.WriteRuns := by
  intro s ch buf g1x act value rest hinv hi hp hb hv hcmd hsched
  obtain ⟨hreq, -, hoe, hout⟩ := idle_of_inv hinv hp hi
  have hcfg : s.cfg = cfgDac := hinv.2.2.2.1 hi
  refine ⟨Config.receivedByte (s.tick + 10), ?_⟩
  refine Eq.trans (runFor_add (j := 2) (k := 13) (run_write_asserts hp hi hoe hv hcmd hsched)) ?_
  refine Eq.trans (runFor_add (j := 12) (k := 1) (run_write_transaction rfl hreq hb hcfg rfl)) ?_
  refine Eq.trans (run_write_deasserts rfl hoe rfl) ?_
  simp [hp, hout]

end Sys2Proof.Proofs
end

section
/-! PROOFS. What the receiver takes of a WRITE with nothing in between. -/

namespace Sys2Proof.Proofs

open Sys2Proof.Machine Sys2Proof.Safety

-- The receiver

/-- The bits of a frame in the order of their clock edges (42_spi_bus.md R105). -/
def frameBits (f : FrameWord) : List Bool :=
  (List.range 16).map (fun k => f.getLsbD (15 - k))

theorem length_frameBits (f : FrameWord) : (frameBits f).length = 16 := by simp [frameBits]

theorem wordOfBits_append (bits : List Bool) (b : Bool) :
    wordOfBits (bits ++ [b]) = wordOfBits bits <<< 1 ||| (BitVec.ofBool b).setWidth 16 := by
  simp [wordOfBits]

/-- The last bit sampled is bit 0. -/
theorem getLsbD_wordOfBits (bits : List Bool) {i : Nat} (hi : i < 16) :
    (wordOfBits bits).getLsbD i = bits.reverse.getD i false := by
  induction bits using List.reverseRecOn generalizing i with
  | nil => simp [wordOfBits]
  | append_singleton bits b ih =>
    rw [wordOfBits_append, BitVec.getLsbD_or, BitVec.getLsbD_shiftLeft, BitVec.getLsbD_setWidth, getLsbD_ofBool]
    cases i with
    | zero => simp
    | succ i => simp [hi, ih (show i < 16 by omega)]

/-- The receiver reads back the frame. -/
theorem wordOfBits_frameBits (f : FrameWord) : wordOfBits (frameBits f) = f := by
  apply BitVec.eq_of_getLsbD_eq
  intro i hi
  rw [getLsbD_wordOfBits _ hi, List.getD_eq_getElem?_getD, List.getElem?_reverse (by simpa [length_frameBits] using hi),
    length_frameBits]
  simp [frameBits, show 15 - i < 16 by omega, show 15 - (15 - i) = i by omega]

section
variable {r : Receiver} (dual : Bool)

/-- Up to the fifteenth bit of a clean interval the receiver counts (42_spi_bus.md R107). -/
theorem observe_counts (bs : List Bool) (hcs : r.cs = some false) (hclean : r.clean = true)
    (hlen : r.bits.length + bs.length ≤ 15) :
    (bs.map (WireItem.bit .thisBlock)).foldl (observe dual) r = { r with bits := r.bits ++ bs } := by
  induction bs generalizing r with
  | nil => simp
  | cons b bs ih =>
    have hone : observe dual r (.bit .thisBlock b) = { r with bits := r.bits ++ [b] } := by
      have hle : r.bits.length + 1 ≤ 15 := by rw [List.length_cons] at hlen; omega
      simp [observe, sampleBit, hcs, hclean, show ¬ 16 ≤ r.bits.length by omega, show r.bits.length ≠ 15 by omega]
    have hlen' : (r.bits ++ [b]).length + bs.length ≤ 15 := by
      simp only [List.length_append, List.length_cons, List.length_nil] at hlen ⊢
      omega
    rw [List.map_cons, List.foldl_cons, hone, ih (r := { r with bits := r.bits ++ [b] }) hcs hclean hlen']
    simp

/-- The sixteenth completes the frame, which is taken as a whole. -/
theorem observe_completes (b : Bool) (hcs : r.cs = some false) (hclean : r.clean = true) (hlen : r.bits.length = 15) :
    observe dual r (.bit .thisBlock b) =
      takeFrame dual (wordOfBits (r.bits ++ [b])) { r with bits := r.bits ++ [b] } := by
  simp [observe, sampleBit, hcs, hclean, hlen]

theorem observe_frameBits (f : FrameWord) (hcs : r.cs = some false) (hclean : r.clean = true) (hbits : r.bits = []) :
    ((frameBits f).map (WireItem.bit .thisBlock)).foldl (observe dual) r =
      takeFrame dual f { r with bits := frameBits f } := by
  have hsplit : frameBits f = (List.range 15).map (fun k => f.getLsbD (15 - k)) ++ [f.getLsbD 0] := by
    rw [frameBits, List.range_succ, List.map_append]
    rfl
  have hword := wordOfBits_frameBits f
  rw [hsplit] at hword ⊢
  rw [List.map_append, List.foldl_append, observe_counts dual _ hcs hclean (by simp [hbits])]
  simp only [List.map_cons, List.map_nil, List.foldl_cons, List.foldl_nil]
  rw [observe_completes (r := { r with bits := r.bits ++ _ }) dual _ hcs hclean (by simp [hbits]), hbits,
    List.nil_append, hword]

theorem takeFrame_cs (f : FrameWord) : (takeFrame dual f r).cs = r.cs := by
  unfold takeFrame
  split <;> rfl

theorem takeFrame_bits (f : FrameWord) : (takeFrame dual f r).bits = r.bits := by
  unfold takeFrame
  split <;> rfl

theorem takeFrame_clean (f : FrameWord) : (takeFrame dual f r).clean = r.clean := by
  unfold takeFrame
  split <;> rfl

/-- A clean interval of one frame ends with a claim (42_spi_bus.md R107). -/
theorem csChange_rises (hcs : r.cs = some false) (hclean : r.clean = true) (hlen : r.bits.length = 16) :
    csChange (some true) r = { r with cs := some true } := by
  simp only [csChange, hcs, hclean, hlen, and_self, if_true]

/-- What a WRITE puts on the wires (41_write.md R85; 42_spi_bus.md R105). -/
def writeItems (f : FrameWord) : List WireItem :=
  .cs (some false) :: .config cfgDac :: ((frameBits f).map (WireItem.bit .thisBlock) ++ [.cs (some true)])

/-- The receiver of a WRITE's wires, CS high and the clock idle low before, takes the frame. -/
theorem observe_writeItems (f : FrameWord) (hcs : r.cs = some true) (hclock : r.sckIdleHigh = false) :
    (writeItems f).foldl (observe dual) r =
      { takeFrame dual f { r with cs := some false, bits := frameBits f, clean := true } with cs := some true } := by
  have hfall : observe dual r (.cs (some false)) = { r with cs := some false, bits := [], clean := true } := by
    simp only [observe, csChange, hcs]
  have hconfig : observe dual { r with cs := some false, bits := [], clean := true } (.config cfgDac) =
      { r with cs := some false, bits := [], clean := true } := by
    simp [observe, clockChange, cfgDac, hclock]
  rw [writeItems, List.foldl_cons, hfall, List.foldl_cons, hconfig, List.foldl_append,
    observe_frameBits dual f rfl rfl rfl]
  exact csChange_rises (takeFrame_cs ..) (takeFrame_clean ..) (by rw [takeFrame_bits, length_frameBits])

/-- The setting of a packed frame is the operands' (30_encoding.md R49). -/
theorem settingOf_pack (ch buf g1x act : Bool) (value : BitVec 16) :
    settingOf (pack ch buf g1x act value) =
      { buffered := buf, gain := if g1x then .x1 else .x2, stage := if act then .active else .shutdown,
        value := value.setWidth 12 } := by
  have hvalue : (pack ch buf g1x act value).extractLsb' 0 12 = value.setWidth 12 := by
    apply BitVec.eq_of_getLsbD_eq
    intro i hi
    rw [BitVec.getLsbD_extractLsb', getLsbD_pack]
    simp [hi]
  simp only [settingOf, getLsbD_pack, hvalue]
  rfl

/-- Channel 1 of the dual chip is output B, any other frame's output A (42_spi_bus.md R107, R108). -/
theorem takeFrame_out (f : FrameWord) :
    if dual = true ∧ f.getLsbD 15 = true
    then (takeFrame dual f r).outB = some (settingOf f) ∧ (takeFrame dual f r).outA = r.outA
    else (takeFrame dual f r).outA = some (settingOf f) ∧ (takeFrame dual f r).outB = r.outB := by
  by_cases hB : dual = true ∧ f.getLsbD 15 = true
  · simp [takeFrame, hB]
  · simp only [takeFrame, Bool.and_eq_true, hB, if_false, and_self]

end

/-- Settles O29: the wires of the undisturbed WRITE are one clean frame. -/
theorem receiverTakesFrame : Obligations.ReceiverTakesFrame := by
  intro s t ch buf g1x act value rest hinv hi hp hb hv hcmd hsched hcs hclock h
  obtain ⟨rdata, hrun⟩ := writeRuns s ch buf g1x act value rest hinv hi hp hb hv hcmd hsched
  set f := pack ch buf g1x act value with hf
  have hwire : t.wire = s.wire ++ writeItems f := by
    rw [← next_inj.1 (hrun.symm.trans h)]
    simp [writeItems, frameBits]
  have hreceiver : receiver t = { takeFrame Config.receiverIsDual f
      { receiver s with cs := some false, bits := frameBits f, clean := true } with cs := some true } := by
    rw [receiver, hwire, List.foldl_append]
    exact observe_writeItems (r := receiver s) _ f hcs hclock
  have hout := takeFrame_out (r := { receiver s with cs := some false, bits := frameBits f, clean := true })
    Config.receiverIsDual f
  rw [show f.getLsbD 15 = ch by rw [hf, getLsbD_pack]; rfl, show settingOf f = _ from settingOf_pack ..] at hout
  rw [hreceiver]
  exact ⟨rfl, by rw [takeFrame_bits, length_frameBits], takeFrame_clean .., hout⟩

end Sys2Proof.Proofs
end

section
/-! PROOFS. A BEGIN after the first does not move the CS line. -/

namespace Sys2Proof.Proofs

open Sys2Proof.Machine Sys2Proof.Safety

/-- The phases a BEGIN starts, runs and ends in. -/
def InBegin (p : Phase) : Prop :=
  p = .idle ∨ p = .bPinMode ∨ p = .bSetHigh ∨ p = .bSpiInit

theorem isBegin_encodeBegin (ignored : BitVec 20) : isBegin (encodeBegin ignored) = true := by
  rw [isBegin, getLsbD_encodeBegin, BitVec.getLsbD_of_ge ignored 20 le_rfl, Bool.not_false]

section
variable {s t : State}

/-- Once initialised, the CS line is high outside the CS-low phases (10_state.md §10). -/
theorem lineLevel_of_inv (hinv : Inv s) (hi : s.initialized = true) (hlow : isCsLowPhase s.phase = false) :
    lineLevel s = true := by
  obtain ⟨-, -, hcs, -⟩ := hinv
  obtain ⟨hoe, hout⟩ := hcs hi
  rw [lineLevel, if_pos hoe]
  simpa [hlow] using hout

theorem InBegin.not_csLow {p : Phase} (h : InBegin p) : isCsLowPhase p = false := by
  rcases h with rfl | rfl | rfl | rfl <;> rfl

/-- A step from a phase of a BEGIN, or of the acceptance of any command, does not come to a CS-low phase. -/
theorem InBegin.next_not_csLow {p q : Phase} (h : InBegin p) (hq : q = p ∨ q ∈ nextPhases p) :
    isCsLowPhase q = false := by
  rcases hq with rfl | hq
  · exact h.not_csLow
  · rcases h with rfl | rfl | rfl | rfl <;> revert q <;> decide

theorem step_keeps_initialized (h : step s = .next t) (hrst : (turnOf s).rst = false) (hi : s.initialized = true) :
    t.initialized = true := by
  obtain ⟨-, -, -, hinit, -⟩ := registerWriters s t hrst h
  rcases hinit with hinit | ⟨-, -, hinit⟩
  · exact hinit.trans hi
  · exact hinit

theorem step_keeps_csHigh (hinv : Inv s) (hi : s.initialized = true) (hp : InBegin s.phase) (h : step s = .next t)
    (hrst : (turnOf s).rst = false) : lineLevel s = true ∧ lineLevel t = true ∧ t.initialized = true := by
  have hi' := step_keeps_initialized h hrst hi
  have hnext := (phaseFollowsSequence s t h).2 hrst
  exact ⟨lineLevel_of_inv hinv hi hp.not_csLow,
    lineLevel_of_inv (stepKeepsInvariant s t hinv h) hi' (hp.next_not_csLow hnext), hi'⟩

/-- In B_SPIINIT the sequencer's step to IDLE is the completion of the BEGIN (40_begin.md R66, R67). -/
theorem eq_beginComplete_of_sequencerStep (hp : s.phase = .bSpiInit) (h : SequencerStep s t) (ht : t.phase = .idle) :
    t = setPhase .idle (beginComplete (setReq .none s)) := by
  cases h with
  | finishesBegin _ _ => rfl
  | rests _ | issues _ _ => exact absurd (hp.symm.trans ht) (by decide)
  | acceptsBegin h' _ _ | acceptsWrite h' _ _ _ | faults h' _ _ _ | configuresOutput h' | drivesHigh h' | drivesLow h'
  | finishesWrite h' => exact absurd (hp.symm.trans h') (by decide)
  | advances h' _ => simp [hp] at h'

/-- A BEGIN completes with CS driven high, whoever acts before. -/
theorem step_completes_begin (hinv : Inv s) (hp : s.phase = .bSpiInit) (h : step s = .next t)
    (hrst : (turnOf s).rst = false) (ht : t.phase = .idle) :
    t.csOe = true ∧ t.csOut = true ∧ t.cfg = cfgDac ∧ t.initialized = true := by
  obtain ⟨-, -, -, -, -, -, -, ⟨-, hpins⟩, -⟩ := hinv
  obtain ⟨hoe, hout⟩ := hpins hp
  by_cases hm : (turnOf s).move = .sequencer
  · rcases step_agents h with ⟨hr, -⟩ | ⟨-, ⟨-, hstep⟩ | ⟨hack, -⟩ | ⟨hother, -⟩⟩
    · simp [hrst] at hr
    · rw [eq_beginComplete_of_sequencerStep (s := takeTurn s) hp hstep ht]
      exact ⟨hoe, hout, rfl, rfl⟩
    · simp [hm] at hack
    · exact absurd hm hother
  · obtain ⟨-, -, -, -, -, -, hkeep⟩ := registerWriters s t hrst h
    obtain ⟨-, -, -, -, -, -, hphase⟩ := hkeep hm
    exact absurd (hp.symm.trans (hphase.symm.trans ht)) (by decide)

/-- An initialised block with a BEGIN presented to it, or with one running. -/
structure RepeatsBegin (s : State) : Prop where
  inv : Inv s
  initialized : s.initialized = true
  phase : InBegin s.phase
  cmd : isBegin s.cmd = true

theorem cmd_sequencerStep (h : SequencerStep s t) : t.cmd = s.cmd := by
  cases h <;> rfl

theorem cmd_acknowledgeStep (h : AcknowledgeStep s t) : t.cmd = s.cmd := by
  cases h with
  | rests _ => rfl
  | grants _ _ => rw [performOp_frame]; rfl

/-- The presented command being a BEGIN, the sequencer does not leave the phases of one. -/
theorem inBegin_sequencerStep (hp : InBegin s.phase) (hcmd : isBegin s.cmd = true) (h : SequencerStep s t) :
    InBegin t.phase := by
  cases h with
  | rests _ | issues _ _ => exact hp
  | acceptsBegin _ _ _ => exact .inr (.inl rfl)
  | acceptsWrite _ _ hw _ | faults _ _ hw _ => simp [hcmd] at hw
  | configuresOutput _ => exact .inr (.inr (.inl rfl))
  | drivesHigh _ => exact .inr (.inr (.inr rfl))
  | finishesBegin _ _ | finishesWrite _ => exact .inl rfl
  | drivesLow hp' => simp [InBegin, hp'] at hp
  | advances hp' _ => rcases hp' with ⟨hp', -⟩ | ⟨hp', -⟩ | ⟨hp', -⟩ | ⟨hp', -⟩ <;> simp [InBegin, hp'] at hp

/-- A turn of the running command: the sequencer's, or the acknowledgement of its request. -/
def IsOwnTurn (turn : Turn) : Prop := turn = sequencerTurn ∨ turn = acknowledgeTurn

theorem exists_step_of_repeatsBegin {turn : Turn} {rest : List Turn} (hs : RepeatsBegin s) (hturn : IsOwnTurn turn)
    (hsched : s.schedule = turn :: rest) : ∃ t, step s = .next t ∧ RepeatsBegin t ∧ t.schedule = rest := by
  obtain ⟨hinv, hi, hp, hcmd⟩ := hs
  have htail : (takeTurn s).schedule = rest := by rw [takeTurn_schedule, hsched, List.tail_cons]
  have hrst : (turnOf s).rst = false := by
    rw [turnOf_of_schedule hsched]
    rcases hturn with rfl | rfl <;> rfl
  rcases hturn with rfl | rfl
  · have h := step_sequencerTurn hsched
    have hstep := sequencerStep_sequencerNext (takeTurn s)
    exact ⟨_, h,
      ⟨stepKeepsInvariant _ _ hinv h, step_keeps_initialized h hrst hi,
        inBegin_sequencerStep (s := takeTurn s) hp hcmd hstep, by rw [cmd_sequencerStep hstep]; exact hcmd⟩,
      (schedule_sequencerStep hstep).trans htail⟩
  · have h := step_acknowledgeTurn hsched
    have hstep := acknowledgeStep_acknowledgeNext (takeTurn s)
    obtain ⟨-, -, -, -, -, -, hphase⟩ := sameRegisters_acknowledgeStep hstep
    exact ⟨_, h,
      ⟨stepKeepsInvariant _ _ hinv h, step_keeps_initialized h hrst hi, by rw [hphase]; exact hp,
        by rw [cmd_acknowledgeStep hstep]; exact hcmd⟩,
      (schedule_acknowledgeStep hstep).trans htail⟩

/-- With its own turns only, a repeated BEGIN comes by such states alone. -/
theorem run_repeatsBegin {turns rest : List Turn} {k : Nat} (hs : RepeatsBegin s)
    (hturns : ∀ turn ∈ turns, IsOwnTurn turn) (hsched : s.schedule = turns ++ rest) (hk : k ≤ turns.length) : ∃ t, runFor k s = .next t ∧ RepeatsBegin t := by
  induction k generalizing s turns with
  | zero => exact ⟨s, rfl, hs⟩
  | succ k ih =>
    obtain ⟨turn, turns, rfl⟩ := List.exists_cons_of_length_pos (Nat.lt_of_lt_of_le k.succ_pos hk)
    obtain ⟨hturn, hturns⟩ := List.forall_mem_cons.1 hturns
    obtain ⟨u, hstep, hu, hsched'⟩ := exists_step_of_repeatsBegin hs hturn hsched
    obtain ⟨t, hrun, ht⟩ := ih hu hturns hsched' (Nat.le_of_succ_le_succ hk)
    exact ⟨t, (runFor_succ k hstep).trans hrun, ht⟩

theorem isOwnTurn_of_mem_beginTurns {turn : Turn} (h : turn ∈ beginTurns) : IsOwnTurn turn := by
  simp only [beginTurns, spiTurns, List.mem_append, List.mem_cons, List.not_mem_nil] at h
  unfold IsOwnTurn
  tauto

end

/-- Settles O21: the undisturbed run is O20's, and the line follows the phase by the invariant. -/
theorem repeatedBeginKeepsCsHigh : Obligations.RepeatedBeginKeepsCsHigh := by
  refine ⟨fun s ignored rest hinv hp hv hcmd hsched => ⟨?_, fun hi k hk => ?_⟩,
    fun s t hinv hp h hrst ht => step_completes_begin hinv hp h hrst ht,
    fun s t hinv hi hp h hrst => step_keeps_csHigh hinv hi hp h hrst⟩
  · have hreq : s.req = .none := req_eq_none_of_inv hinv (by rw [hp]; rfl)
    refine ⟨_, run_begin hp hreq hv hcmd hsched, hp, rfl, rfl, rfl, rfl, ?_⟩
    rw [List.drop_left]
    rfl
  · have hbegin : isBegin s.cmd = true := by rw [hcmd]; exact isBegin_encodeBegin ignored
    obtain ⟨t, hrun, ht⟩ :=
      run_repeatsBegin ⟨hinv, hi, .inl hp, hbegin⟩ (fun _ => isOwnTurn_of_mem_beginTurns) hsched hk
    exact ⟨t, hrun, lineLevel_of_inv ht.inv ht.initialized ht.phase.not_csLow⟩

end Sys2Proof.Proofs
end
